-- ==== Sys2Proof/Word.lean ====
section
/-! DEFINITION. The value types of the block (spec/00_scope.md R8): a Byte is 8 unsigned bits, ticks and deadlines are
plain naturals (Nat), the retry counter has RETRY_W = 32 bits (R6, R35). -/

namespace Sys2Proof

/-- R8: an unsigned integer in 0..255, bit 7 the most significant. -/
abbrev Byte := BitVec 8

/-- R8: `UInt_W` at W = RETRY_W = 32 (R6, decision D20). -/
abbrev RetryCount := BitVec 32

end Sys2Proof
end

