-- ==== Sys2Proof/Config.lean ====
section
/-! DEFINITION. What an implementation fixes (the parameters of spec/00_scope.md R6) and the free values (the draws of
spec/10_state.md R52, R53 and spec/70_reset_and_hazards.md R230). The parameters are data: State carries them, no step
changes them, and a statement about every state is a statement for every value of them (log entry 1). -/

namespace Sys2Proof

/-- R6: the parameters of a model, fixed for the life of a run. -/
structure Params where
  /-- `CAP`: the size of every payload buffer and the largest LENGTH accepted, 1..255. -/
  cap : Nat
  /-- `ACK_WAIT_PERIOD`: the ticks the sender waits for an ACK after wait entry. -/
  ackWaitPeriod : Nat
  /-- `T0`: the value of the clock when the environment starts. -/
  t0 : Nat
  /-- `TICK_W`: the width of a finite tick counter, none for the unbounded naturals. -/
  tickW : Option Nat
  deriving DecidableEq, Repr

/-- DESIGN CHOICE (log entry 3): the parameters of `State.reset`. CAP and T0 are those of the conventions of
spec/95_test_vectors.md, ACK_WAIT_PERIOD that of its programs P2 and P3. The spec fixes none of them. -/
def Params.default : Params :=
  { cap := 32, ackWaitPeriod := 4, t0 := 0, tickW := none }

/-- The FREE VALUE (log entry 4): the byte of each draw of R52, R53 and R230. It has no body, so nothing can evaluate it
and no claim can rest on a value of it. -/
opaque Config.freeByte : Nat → Byte

/-- The `n` draws numbered from `start` on. -/
def drawBytes (start n : Nat) : List Byte :=
  (List.range n).map fun i => Config.freeByte (start + i)

end Sys2Proof
end

