-- ==== Sys2Proof/Syntax.lean ====
section
/-! DEFINITION. The closed set of operations of the block (spec/00_scope.md R2): one constructor per row of
spec/opcode_table.json, in the table's order. -/

namespace Sys2Proof

/-- The 22 operations. A receiver handler's operand is the byte it takes from FWD, which is state and no field of the
selector (R89), so the handlers carry no operand; the commands carry those of R90 and R93. -/
inductive Instr where
  /-- RX.NOBYTE, R111. -/
  | rxNobyte
  /-- RX.AWAIT_START, R112. -/
  | rxAwaitStart
  /-- RX.READ_LENGTH, R113. -/
  | rxReadLength
  /-- RX.READ_PAYLOAD, R115. -/
  | rxReadPayload
  /-- RX.VERIFY_CHECKSUM, R117. -/
  | rxVerifyChecksum
  /-- RX.AWAIT_END, R119. -/
  | rxAwaitEnd
  /-- TX.IDLE, R151. -/
  | txIdle
  /-- TX.EMIT_START, R143. -/
  | txEmitStart
  /-- TX.EMIT_LENGTH, R144. -/
  | txEmitLength
  /-- TX.EMIT_PAYLOAD, R145. -/
  | txEmitPayload
  /-- TX.EMIT_CHECKSUM, R146. -/
  | txEmitChecksum
  /-- TX.EMIT_END, R147. -/
  | txEmitEnd
  /-- TX.WAIT_ENTRY, R148. -/
  | txWaitEntry
  /-- TX.WAIT, R149. -/
  | txWait
  /-- TX.DONE, R152. -/
  | txDone
  /-- RESET, R230. -/
  | reset
  /-- TX_START, R141: the length byte and the payload bytes. -/
  | txStart (len : Byte) (payload : List Byte)
  /-- TICK, R182. -/
  | tick
  /-- ENV_PUT_FWD, R183. -/
  | envPutFwd (b : Byte)
  /-- ENV_TAKE_FWD, R184. -/
  | envTakeFwd
  /-- ENV_PUT_REV, R185. -/
  | envPutRev (b : Byte)
  /-- ENV_TAKE_REV, R186. -/
  | envTakeRev
  deriving DecidableEq, Repr

end Sys2Proof
end

