-- ==== Sys2Proof/WellFormed.lean ====
section
/-! DEFINITION. When an operation is well formed. The one operand relation of spec/30_encoding.md R93: TX_START's payload
is the Bytes p[0..len-1]. That `len <= CAP` is no matter of form: TX_START faults on it (R141). -/

namespace Sys2Proof

/-- R90, R93: TX_START carries exactly `len` payload bytes; every other operation is well formed as written. -/
def Instr.wf : Instr → Bool
  | .txStart len payload => payload.length == len.toNat
  | .rxNobyte | .rxAwaitStart | .rxReadLength | .rxReadPayload | .rxVerifyChecksum | .rxAwaitEnd => true
  | .txIdle | .txEmitStart | .txEmitLength | .txEmitPayload | .txEmitChecksum | .txEmitEnd => true
  | .txWaitEntry | .txWait | .txDone => true
  | .reset | .tick | .envPutFwd _ | .envTakeFwd | .envPutRev _ | .envTakeRev => true

end Sys2Proof
end

