-- ==== Sys2Proof/Decode.lean ====
section
/-! DEFINITION. The two encodings of spec/30_encoding.md: the 6-bit dispatch selector (R88, R89) and the 4-bit command
code with its operand bytes (R90, R93). Decoding is total and rejects by name; the encoder after it is written from the
same tables. `decodeTableWord` reads a word of spec/opcode_table.json. -/

namespace Sys2Proof

/-- What an operation is encoded as. The two number spaces are separate: a selector is computed from the state and never
stored (R88), a command code is issued by the host or the environment (R90). -/
inductive Encoded where
  /-- R88: {agent, avail, phase[3:0]}. -/
  | selector (w : BitVec 6)
  /-- R90, R93: the command code and its operand bytes, `len` before the payload. -/
  | command (code : BitVec 4) (operands : List Byte)
  deriving DecidableEq, Repr

/-- Why an encoding is rejected (R91). -/
inductive DecodeError where
  /-- R91: a selector with a reserved phase code, which matches no row of R89. -/
  | reservedSelector (w : BitVec 6)
  /-- R91: a command code 0x7 to 0xF. -/
  | reservedCommand (code : BitVec 4)
  /-- R90: not the operands the table gives the command (log entry 8). -/
  | operandCount (code : BitVec 4) (got : Nat)
  deriving DecidableEq, Repr

/-- One row of R89's table. -/
structure SelectorRow where
  mask : BitVec 6
  pattern : BitVec 6
  instr : Instr
  deriving DecidableEq, Repr

/-- R89, receiver rows. -/
def receiverRows : List SelectorRow :=
  [ ⟨0x30, 0x00, .rxNobyte⟩,
    ⟨0x3F, 0x10, .rxAwaitStart⟩,
    ⟨0x3F, 0x11, .rxReadLength⟩,
    ⟨0x3F, 0x12, .rxReadPayload⟩,
    ⟨0x3F, 0x13, .rxVerifyChecksum⟩,
    ⟨0x3F, 0x14, .rxAwaitEnd⟩ ]

/-- R89, sender rows. -/
def senderRows : List SelectorRow :=
  [ ⟨0x2F, 0x20, .txIdle⟩,
    ⟨0x2F, 0x21, .txEmitStart⟩,
    ⟨0x2F, 0x22, .txEmitLength⟩,
    ⟨0x2F, 0x23, .txEmitPayload⟩,
    ⟨0x2F, 0x24, .txEmitChecksum⟩,
    ⟨0x2F, 0x25, .txEmitEnd⟩,
    ⟨0x2F, 0x26, .txWaitEntry⟩,
    ⟨0x2F, 0x27, .txWait⟩,
    ⟨0x2F, 0x28, .txDone⟩ ]

/-- R89: the dispatch table. -/
def selectorRows : List SelectorRow := receiverRows ++ senderRows

/-- R89: does the selector match the row. -/
def rowMatches (w : BitVec 6) (r : SelectorRow) : Bool := w &&& r.mask == r.pattern

/-- R89: the one row a selector matches; R91: a selector that matches none is refused. -/
def decodeSelector (w : BitVec 6) : Except DecodeError Instr :=
  match selectorRows.find? (rowMatches w) with
  | some r => .ok r.instr
  | none => .error (.reservedSelector w)

/-- R90: a command without operands. -/
def noOperands (code : BitVec 4) (i : Instr) : List Byte → Except DecodeError Instr
  | [] => .ok i
  | ops => .error (.operandCount code ops.length)

/-- R90, R93: a command with one Byte. -/
def oneByte (code : BitVec 4) (f : Byte → Instr) : List Byte → Except DecodeError Instr
  | [b] => .ok (f b)
  | ops => .error (.operandCount code ops.length)

/-- R90, R93: TX_START's `len` and then exactly `len` payload Bytes, p[0] first. -/
def startOperands (code : BitVec 4) : List Byte → Except DecodeError Instr
  | len :: payload =>
    if payload.length = len.toNat then .ok (.txStart len payload)
    else .error (.operandCount code (payload.length + 1))
  | [] => .error (.operandCount code 0)

/-- R90: the command table; R91: codes 0x7 to 0xF name no operation. -/
def decodeCommand (code : BitVec 4) (operands : List Byte) : Except DecodeError Instr :=
  match code.toNat with
  | 0 => noOperands code .reset operands
  | 1 => startOperands code operands
  | 2 => noOperands code .tick operands
  | 3 => oneByte code .envPutFwd operands
  | 4 => noOperands code .envTakeFwd operands
  | 5 => oneByte code .envPutRev operands
  | 6 => noOperands code .envTakeRev operands
  | _ => .error (.reservedCommand code)

/-- Decoding, total on every encoding. -/
def decode : Encoded → Except DecodeError Instr
  | .selector w => decodeSelector w
  | .command code operands => decodeCommand code operands

/-- The encoder, from the match values of R89 and the codes of R90. A bit R89 marks `x` is written 0. -/
def encode : Instr → Encoded
  | .rxNobyte => .selector 0x00
  | .rxAwaitStart => .selector 0x10
  | .rxReadLength => .selector 0x11
  | .rxReadPayload => .selector 0x12
  | .rxVerifyChecksum => .selector 0x13
  | .rxAwaitEnd => .selector 0x14
  | .txIdle => .selector 0x20
  | .txEmitStart => .selector 0x21
  | .txEmitLength => .selector 0x22
  | .txEmitPayload => .selector 0x23
  | .txEmitChecksum => .selector 0x24
  | .txEmitEnd => .selector 0x25
  | .txWaitEntry => .selector 0x26
  | .txWait => .selector 0x27
  | .txDone => .selector 0x28
  | .reset => .command 0x0 []
  | .txStart len payload => .command 0x1 (len :: payload)
  | .tick => .command 0x2 []
  | .envPutFwd b => .command 0x3 [b]
  | .envTakeFwd => .command 0x4 []
  | .envPutRev b => .command 0x5 [b]
  | .envTakeRev => .command 0x6 []

/-- Byte `i` of a word, bits [8i+7:8i] (R44). -/
def byteOf (w i : Nat) : Byte := BitVec.ofNat 8 (w / 256 ^ i)

/-- The `n` bytes of a word from byte `start` on. -/
def bytesOf (w start n : Nat) : List Byte := (List.range n).map fun i => byteOf w (start + i)

/-- The operand bytes of a command laid out after its code byte: byte 1 is TX_START's `len` or the Byte of a put, the
payload follows in index order. -/
def wordOperands (w : Nat) : List Byte :=
  match w % 16 with
  | 1 => byteOf w 1 :: bytesOf w 2 (byteOf w 1).toNat
  | 3 | 5 => bytesOf w 1 1
  | _ => []

/-- DESIGN CHOICE (log entry 9): the encoding a table word stands for. At the width the table gives a row (4 bits for a
command, 6 for a selector) the width tells the two number spaces apart. In whole bytes it does not: a word whose first
byte is one of the seven command codes is then read as that command, any other word below 64 as a selector. -/
def tableWord (nbits w : Nat) : Option Encoded :=
  if nbits ≤ 4 then some (.command (BitVec.ofNat 4 w) (wordOperands (w % 16)))
  else if nbits ≤ 6 then some (.selector (BitVec.ofNat 6 w))
  else if w % 256 ≤ 6 then some (.command (BitVec.ofNat 4 w) (wordOperands w))
  else if w < 64 then some (.selector (BitVec.ofNat 6 w))
  else none

/-- The instruction the decoder reads from a word of spec/opcode_table.json, bit 0 its least significant bit. -/
def decodeTableWord (nbits w : Nat) : Option Instr :=
  match tableWord nbits w with
  | none => none
  | some e =>
    match decode e with
    | .ok i => some i
    | .error _ => none

end Sys2Proof
end

