-- ==== Sys2Proof/Machine/State.lean ====
section
/-! DEFINITION. The state of the closed model (spec/10_state.md): the block's registers, the environment state it
touches, the model's bookkeeping, and the model's own fields. Everything is plain data. -/

namespace Sys2Proof.Machine

/-- R21: the receiver's five phases, a closed enumeration (R91). -/
inductive RxPhase where
  | awaitStart | readLength | readPayload | verifyChecksum | awaitEnd
  deriving DecidableEq, Repr

/-- R29, R30: the sender's nine phases, a closed enumeration (R91). -/
inductive TxPhase where
  | idle | emitStart | emitLength | emitPayload | emitChecksum | emitEnd | waitEntry | wait | done
  deriving DecidableEq, Repr

/-- R87: the status of an agent's step. -/
inductive Status where
  | waiting | progressed | completed
  deriving DecidableEq, Repr

/-- R204: the observation events, the complete list. -/
inductive Event where
  | rxNoise (b : Byte)
  | rxStart
  | rxLength (len : Byte)
  | rxLengthReject (len : Byte)
  | rxPayload (b : Byte)
  | rxChecksumOk
  | rxChecksumReject (expected got : Byte)
  | rxAccept (len : Byte)
  | rxEndReject (b : Byte)
  | txStart (len : Byte)
  | txByte (b : Byte)
  | txAck
  | txDiscard (b : Byte)
  | txTimeout
  deriving DecidableEq, Repr

/-- R201: the two faults, with the information each records. A fault stops the machine for good (R42); the stop is safe:
no claim can be proved about what the hardware would do after a misuse the spec leaves open (decision D24). -/
inductive Fault where
  /-- Code 1, F_START_BUSY: TX_START while an instance is in progress; records `tx.phase`. Safe. -/
  | startBusy (phase : TxPhase)
  /-- Code 2, F_START_LEN: TX_START with `len > CAP`; records `len`. Safe. -/
  | startLen (len : Byte)
  deriving DecidableEq, Repr

/-- The refusals of R202, by name, and that of an operation without a meaning. All are safe: nothing can be proved past
them. -/
inductive Refusal where
  /-- Raised by exec's arm of an operation that has no meaning yet (none is left). Safe. -/
  | notModelled (mnemonic : String)
  /-- R202, R91: raised by the fetch on a selector that matches no row of R89; no state has one. Safe. -/
  | reservedSelector (w : BitVec 6)
  /-- R202, R91: raised by the fetch on a command code 0x7 to 0xF. Safe. -/
  | reservedCommand (code : BitVec 4)
  /-- R90, R93: raised by the fetch, or by TX_START, when operand bytes are missing or too many (log entry 8). Safe. -/
  | operandCount (code : BitVec 4) (got : Nat)
  /-- R202, R60: raised by an operation that would access a buffer element outside 0..CAP-1. Safe. -/
  | bufferIndex (index : Nat)
  /-- R202, R6: raised by every move of a model whose parameters are outside their ranges. Safe. -/
  | parameterRange
  /-- R202, decision D30: raised by TICK and TX.WAIT_ENTRY when a tick value plus ACK_WAIT_PERIOD would not fit a finite
  TICK_W (log entry 7). Safe. -/
  | tickOverflow
  deriving DecidableEq, Repr

/-- R38, R39, R41: one slot of the channel, with the model's overrun flag. -/
structure Slot where
  avail : Bool
  data : Byte
  overrun : Bool
  deriving DecidableEq, Repr

/-- R60: a buffer is the list of its elements in index order. -/
abbrev Buffer := List Byte

/-- R20 to R25: the receiver's registers and its payload buffer. -/
structure Receiver where
  phase : RxPhase
  /-- `rx.exp_len`. -/
  expLen : Byte
  count : Byte
  acc : Byte
  pbuf : Buffer
  deriving DecidableEq, Repr

/-- R28 to R36: the sender's registers and its payload buffer. -/
structure Sender where
  phase : TxPhase
  len : Byte
  txbuf : Buffer
  chk : Byte
  idx : Byte
  retry : RetryCount
  deadline : Nat
  deriving DecidableEq, Repr

/-- R44: the output signals a step drives. Kept for an observer until the next move; no rule reads them (log entry 5). -/
structure StepOut where
  fwdTake : Bool
  fwdPut : Bool
  fwdPutData : Byte
  revTake : Bool
  revPut : Bool
  revPutData : Byte
  rxStatus : BitVec 2
  txStatus : BitVec 2
  deriving DecidableEq, Repr

/-- R44: an output signal that a step does not drive is 0. -/
def StepOut.zero : StepOut :=
  { fwdTake := false, fwdPut := false, fwdPutData := 0, revTake := false, revPut := false, revPutData := 0,
    rxStatus := 0, txStatus := 0 }

/-- R180, R181: a move as the scheduler, the host or the environment asks for it: a resumption of an agent, whose
selector the state gives (R88), or a command. -/
inductive Move where
  /-- `rx_step`, R110. -/
  | stepRx
  /-- `tx_step`, R142. -/
  | stepTx
  /-- A command code of R90 with its operand bytes. -/
  | command (code : BitVec 4) (operands : List Byte)
  deriving DecidableEq, Repr

/-- The state of the closed model. -/
structure State where
  /-- R6: the parameters; no move changes them. -/
  params : Params
  rx : Receiver
  /-- R26: the payload of the last accepted frame. -/
  rbuf : Buffer
  /-- R27: its length. -/
  rlen : Byte
  tx : Sender
  /-- R38: the slot from sender to receiver. -/
  fwd : Slot
  /-- R39: the slot from receiver to sender. -/
  rev : Slot
  /-- R40: the logical clock. -/
  clock : Nat
  /-- R42: none, or the fault that stopped the model. -/
  fault : Option Fault
  /-- R43: the events so far, oldest first. -/
  trace : List Event
  /-- R44: what the last move drove. -/
  out : StepOut
  /-- The model's own: the moves still to come, next first (R181, log entry 2). -/
  sched : List Move
  /-- The model's own: how many draws have been made (log entry 4). -/
  draws : Nat
  deriving DecidableEq, Repr

/-- R52, R53, R232: the state before any step, for given parameters: the block in its reset state, an empty environment
with clock T0. The draws are those numbered 0, 1, … : pbuf, txbuf, FWD.data, REV.data. -/
def State.powerOn (p : Params) : State :=
  { params := p
    rx := { phase := .awaitStart, expLen := 0, count := 0, acc := 0, pbuf := drawBytes 0 p.cap }
    rbuf := List.replicate p.cap 0
    rlen := 0
    tx := { phase := .idle, len := 0, txbuf := drawBytes p.cap p.cap, chk := 0, idx := 0, retry := 0, deadline := 0 }
    fwd := { avail := false, data := Config.freeByte (2 * p.cap), overrun := false }
    rev := { avail := false, data := Config.freeByte (2 * p.cap + 1), overrun := false }
    clock := p.t0
    fault := none
    trace := []
    out := StepOut.zero
    sched := []
    draws := 2 * p.cap + 2 }

/-- The machine right after power-on, with the parameters of log entry 3 and no move to come (log entry 2). -/
def State.reset : State := State.powerOn Params.default

/-- The outcome of a move. -/
abbrev Result := Host.Outcome State Fault Refusal

end Sys2Proof.Machine
end

