-- ==== Sys2Proof/Machine/Codec.lean ====
section
/-! DEFINITION. The frame codec (spec/40_codec.md) and the wire format (spec/30_encoding.md R80 to R84). -/

namespace Sys2Proof.Machine

/-- R80: the start marker. -/
def wireStart : Byte := 0x02

/-- R80: the end marker. -/
def wireEnd : Byte := 0x03

/-- R80: the acknowledgment. -/
def wireAck : Byte := 0x06

/-- R100: the XOR-fold of a payload, in index order, from 0x00. -/
def checksum (payload : List Byte) : Byte := payload.foldl (fun c b => c ^^^ b) 0x00

/-- R81: the frame of a payload, the first byte put first. -/
def frame (payload : List Byte) : List Byte :=
  [wireStart, BitVec.ofNat 8 payload.length] ++ payload ++ [checksum payload, wireEnd]

end Sys2Proof.Machine
end

