-- ==== Sys2Proof/Machine/Flags.lean ====
section
/-! DEFINITION. The block has no condition codes (spec/10_state.md R48). Its flags are the slots' availability and
overrun flags (R38, R39, R41), set and cleared by Put and Take (spec/20_memory.md R63 to R65), and the step status
(spec/30_encoding.md R87). -/

namespace Sys2Proof.Machine

/-- R63: `Avail(s)`. -/
def slotAvail (sl : Slot) : Bool := sl.avail

/-- R64: `Take(s)`: the byte, and the slot with `avail` cleared and `data` kept. -/
def slotTake (sl : Slot) : Byte × Slot := (sl.data, { sl with avail := false })

/-- R65: `Put(s, b)`: it always writes; onto a full slot it also sets `overrun`, which nothing clears (R41). -/
def slotPut (sl : Slot) (b : Byte) : Slot := { avail := true, data := b, overrun := sl.overrun || sl.avail }

/-- R184, R186: drop the byte if there is one. -/
def slotDrop (sl : Slot) : Slot := if slotAvail sl then (slotTake sl).2 else sl

/-- R87: the 2-bit code of a status; 11 is never produced. -/
def Status.code : Status → BitVec 2
  | .waiting => 0b00
  | .progressed => 0b01
  | .completed => 0b10

/-- R8: `sat_inc` at RETRY_W. -/
def satInc (v : RetryCount) : RetryCount := if v.toNat < 2 ^ 32 - 1 then v + 1 else v

end Sys2Proof.Machine
end

