-- ==== Sys2Proof/Machine/Operands.lean ====
section
/-! DEFINITION. What an operation reads besides registers: phase codes (spec/30_encoding.md R85, R86), the dispatch
selectors computed from the state (R88), the parameters' ranges (spec/00_scope.md R6, R202) and the operand buses of
spec/10_state.md R44 and spec/30_encoding.md R93. -/

namespace Sys2Proof.Machine

/-- R85: the 3-bit code of a receiver phase. -/
def RxPhase.code : RxPhase → BitVec 3
  | .awaitStart => 0
  | .readLength => 1
  | .readPayload => 2
  | .verifyChecksum => 3
  | .awaitEnd => 4

/-- R86: the 4-bit code of a sender phase. -/
def TxPhase.code : TxPhase → BitVec 4
  | .idle => 0
  | .emitStart => 1
  | .emitLength => 2
  | .emitPayload => 3
  | .emitChecksum => 4
  | .emitEnd => 5
  | .waitEntry => 6
  | .wait => 7
  | .done => 8

/-- R85: the phase of a code; codes 5 to 7 are reserved (R91). -/
def rxPhaseOfCode (c : BitVec 3) : Option RxPhase :=
  [RxPhase.awaitStart, .readLength, .readPayload, .verifyChecksum, .awaitEnd].find? fun p => p.code == c

/-- R86: the phase of a code; codes 9 to 15 are reserved (R91). -/
def txPhaseOfCode (c : BitVec 4) : Option TxPhase :=
  [TxPhase.idle, .emitStart, .emitLength, .emitPayload, .emitChecksum, .emitEnd, .waitEntry, .wait, .done].find?
    fun p => p.code == c

/-- R88: {0, FWD.avail, 0, rx.phase[2:0]}. -/
def rxSelector (s : State) : BitVec 6 :=
  (0#1 ++ BitVec.ofBool s.fwd.avail ++ 0#1 ++ s.rx.phase.code : BitVec 6)

/-- R88: {1, REV.avail, tx.phase[3:0]}. -/
def txSelector (s : State) : BitVec 6 :=
  (1#1 ++ BitVec.ofBool s.rev.avail ++ s.tx.phase.code : BitVec 6)

/-- R6, decision D30: does a tick value plus ACK_WAIT_PERIOD fit the tick counter. -/
def tickFits (p : Params) (t : Nat) : Bool :=
  match p.tickW with
  | none => true
  | some w => decide (t + p.ackWaitPeriod < 2 ^ w)

/-- R6, R202: are the parameters in their ranges. -/
def paramsOk (p : Params) : Bool := decide (1 ≤ p.cap) && decide (p.cap ≤ 255) && tickFits p p.t0

/-- R44: bytes on a bus, byte `i` on bits [8i+7:8i]. -/
def packBytes (bs : List Byte) : Nat := bs.foldr (fun b acc => b.toNat + 256 * acc) 0

/-- R44, R93: TX_START's operand bytes from the signals `tx_start_len` and `tx_start_payload`. -/
def startSignals (len : Byte) (payloadBus : Nat) : List Byte := len :: bytesOf payloadBus 0 len.toNat

end Sys2Proof.Machine
end

