-- ==== Sys2Proof/Machine/Ops.lean ====
section
/-! DEFINITION. The named operations every meaning is written over: the buffers (spec/20_memory.md R60, R61), the agents'
channel primitives with the signals they drive (spec/10_state.md R44, R45), trace events (spec/60_exceptions.md R206), raising a
fault (spec/00_scope.md R9, spec/60_exceptions.md R201), and the conditions under which a move is possible at all (spec/43_environment.md R181,
R202). A meaning reads the state from before its move and builds the state after it: all writes of a step take effect
together (R9, R10). -/

namespace Sys2Proof.Machine

/-- The canonical form of the three buffers (R60, log entry 6): each holds exactly CAP elements. -/
abbrev Memory.wf (s : State) : Prop :=
  s.rx.pbuf.length = s.params.cap ∧ s.rbuf.length = s.params.cap ∧ s.tx.txbuf.length = s.params.cap

/-- R9: `buf[i]`, none outside the buffer. -/
def readBuf (buf : Buffer) (i : Nat) : Option Byte := buf[i]?

/-- R9: `buf[i] <- v`, none outside the buffer. -/
def writeBuf (buf : Buffer) (i : Nat) (v : Byte) : Option Buffer :=
  if i < buf.length then some (buf.set i v) else none

/-- The loop `for k in 0 .. n-1: dst[k] <- src[k]` of R120 and R141: none if an element it would touch does not exist. -/
def copyPrefix (n : Nat) (src dst : Buffer) : Option Buffer :=
  if n ≤ src.length ∧ n ≤ dst.length then some (src.take n ++ dst.drop n) else none

/-- R206: `emit ev`. -/
def emit (ev : Event) (s : State) : State := { s with trace := s.trace ++ [ev] }

/-- R110: the receiver takes the byte in FWD and drives `fwd_take`. -/
def takeFwd (s : State) : Byte × State :=
  ((slotTake s.fwd).1, { s with fwd := (slotTake s.fwd).2, out := { s.out with fwdTake := true } })

/-- R143 to R147: the sender puts a byte into FWD and drives `fwd_put` and `fwd_put_data`. -/
def putFwd (b : Byte) (s : State) : State :=
  { s with fwd := slotPut s.fwd b, out := { s.out with fwdPut := true, fwdPutData := b } }

/-- R150: the sender takes the byte in REV and drives `rev_take`. -/
def takeRev (s : State) : Byte × State :=
  ((slotTake s.rev).1, { s with rev := (slotTake s.rev).2, out := { s.out with revTake := true } })

/-- R120: the receiver puts a byte into REV and drives `rev_put` and `rev_put_data`. -/
def putRev (b : Byte) (s : State) : State :=
  { s with rev := slotPut s.rev b, out := { s.out with revPut := true, revPutData := b } }

/-- `return S` of a receiver step: `rx_status` (R87). -/
def rxReturn (st : Status) (s : State) : State := { s with out := { s.out with rxStatus := st.code } }

/-- `return S` of a sender step: `tx_status` (R87). -/
def txReturn (st : Status) (s : State) : State := { s with out := { s.out with txStatus := st.code } }

/-- R9, R201: raise a fault. It records the fault and changes nothing else: no state is saved, there is no handler (R209)
and no return (R210); no move is possible afterwards (R42). -/
def raiseFault (f : Fault) (s : State) : State := { s with fault := some f }

/-- R201: the outcome of a move in a run. A faulted state is never a final state of a run: a move that leaves a fault in the
fault register stops the machine with that fault, and there is no next state (log entry 12). -/
def stopOnFault : Result → Result
  | .next s =>
    match s.fault with
    | some f => .fault f
    | none => .next s
  | .fault f => .fault f
  | .refused r => .refused r

/-- R201: the code of a fault. -/
def Fault.code : Fault → Nat
  | .startBusy _ => 1
  | .startLen _ => 2

/-- R181, R42: a move is possible in every state without a fault and in no state with one; R202: a parameter outside its
range is refused. The move's outputs start at 0 (R44). -/
def move (s : State) (body : State → Result) : Result :=
  match s.fault with
  | some f => .fault f
  | none => if paramsOk s.params then body { s with out := StepOut.zero } else .refused .parameterRange

end Sys2Proof.Machine
end

