-- ==== Sys2Proof/Machine/Environment.lean ====
section
/-! DEFINITION. The environment's moves (spec/43_environment.md R182 to R186). They drive no signal of the block and emit
no event (R205). -/

namespace Sys2Proof.Machine

/-- TICK, R182. A tick value that does not leave room for ACK_WAIT_PERIOD in a finite TICK_W is refused (R6, R202). -/
def execTick (s : State) : Result :=
  move s fun s =>
    if tickFits s.params (s.clock + 1) then .next { s with clock := s.clock + 1 } else .refused .tickOverflow

/-- ENV_PUT_FWD, R183. -/
def execEnvPutFwd (b : Byte) (s : State) : Result :=
  move s fun s => .next { s with fwd := slotPut s.fwd b }

/-- ENV_TAKE_FWD, R184. -/
def execEnvTakeFwd (s : State) : Result :=
  move s fun s => .next { s with fwd := slotDrop s.fwd }

/-- ENV_PUT_REV, R185. -/
def execEnvPutRev (b : Byte) (s : State) : Result :=
  move s fun s => .next { s with rev := slotPut s.rev b }

/-- ENV_TAKE_REV, R186. -/
def execEnvTakeRev (s : State) : Result :=
  move s fun s => .next { s with rev := slotDrop s.rev }

end Sys2Proof.Machine
end

