-- ==== Sys2Proof/Machine/HostCommands.lean ====
section
/-! DEFINITION. The host's commands: RESET (spec/70_reset_and_hazards.md R230) and TX_START (spec/42_sender.md R141). -/

namespace Sys2Proof.Machine

/-- R230: the block's registers at the values of R52, the two payload buffers at the given draws. The channel, the clock,
the fault and the trace stay (decision D25). -/
def resetBlock (drawPbuf drawTxbuf : Buffer) (s : State) : State :=
  { s with
    rx := { phase := .awaitStart, expLen := 0, count := 0, acc := 0, pbuf := drawPbuf }
    rbuf := List.replicate s.params.cap 0x00
    rlen := 0
    tx := { phase := .idle, len := 0, txbuf := drawTxbuf, chk := 0, idx := 0, retry := 0, deadline := 0 } }

/-- RESET, R230: the draws are the next 2*CAP free values (decision D32, log entry 4). -/
def execReset (s : State) : Result :=
  move s fun s =>
    .next (resetBlock (drawBytes s.draws s.params.cap) (drawBytes (s.draws + s.params.cap) s.params.cap)
      { s with draws := s.draws + 2 * s.params.cap })

/-- R141: no instance is in progress. -/
def mayStart (p : TxPhase) : Bool := p == .idle || p == .done

/-- TX_START, R141: busy is checked before the length (R208); then the payload is latched, and the checksum computed once
for the instance. `tx.deadline` and the slots are not touched. -/
def execTxStart (len : Byte) (payload : List Byte) (s : State) : Result :=
  move s fun s =>
    if mayStart s.tx.phase then
      if s.params.cap < len.toNat then .next (raiseFault (.startLen len) s)
      else if payload.length < len.toNat then .refused (.operandCount 1 (payload.length + 1))
      else
        match copyPrefix len.toNat payload s.tx.txbuf with
        | none => .refused (.bufferIndex (len.toNat - 1))
        | some txbuf =>
          .next (emit (.txStart len)
            { s with
              tx := { s.tx with
                txbuf := txbuf, len := len, chk := checksum (payload.take len.toNat), retry := 0, idx := 0,
                phase := .emitStart } })
    else .next (raiseFault (.startBusy s.tx.phase) s)

end Sys2Proof.Machine
end

