-- ==== Sys2Proof/Machine/Receiver.lean ====
section
/-! DEFINITION. The receiver's phase handlers (spec/41_receiver.md). The five that find a byte take it first (R110). -/

namespace Sys2Proof.Machine

/-- RX.NOBYTE, R111. -/
def execRxNobyte (s : State) : Result :=
  move s fun s => .next (rxReturn .waiting s)

/-- RX.AWAIT_START, R112. -/
def execRxAwaitStart (s : State) : Result :=
  move s fun s =>
    let (b, s) := takeFwd s
    .next (rxReturn .progressed
      (if b = wireStart then emit .rxStart { s with rx := { s.rx with count := 0, acc := 0x00, phase := .readLength } }
       else emit (.rxNoise b) s))

/-- The branches of R113 on the LENGTH byte, an unsigned count (R82): the next phase and the event. -/
def lengthBranch (cap : Nat) (b : Byte) : RxPhase × Event :=
  if cap < b.toNat then (.awaitStart, .rxLengthReject b)
  else if b = 0 then (.verifyChecksum, .rxLength 0)
  else (.readPayload, .rxLength b)

/-- RX.READ_LENGTH, R113. -/
def execRxReadLength (s : State) : Result :=
  move s fun s =>
    let (b, s) := takeFwd s
    let (phase, ev) := lengthBranch s.params.cap b
    .next (rxReturn .progressed (emit ev { s with rx := { s.rx with expLen := b, phase := phase } }))

/-- RX.READ_PAYLOAD, R115. An index outside `pbuf` is refused (R202). -/
def execRxReadPayload (s : State) : Result :=
  move s fun s =>
    let (b, s) := takeFwd s
    match writeBuf s.rx.pbuf s.rx.count.toNat b with
    | none => .refused (.bufferIndex s.rx.count.toNat)
    | some pbuf =>
      let c := s.rx.count + 1
      let phase := if c = s.rx.expLen then .verifyChecksum else s.rx.phase
      .next (rxReturn .progressed (emit (.rxPayload b)
        { s with rx := { s.rx with pbuf := pbuf, acc := s.rx.acc ^^^ b, count := c, phase := phase } }))

/-- RX.VERIFY_CHECKSUM, R117. -/
def execRxVerifyChecksum (s : State) : Result :=
  move s fun s =>
    let (b, s) := takeFwd s
    .next (rxReturn .progressed
      (if b = s.rx.acc then emit .rxChecksumOk { s with rx := { s.rx with phase := .awaitEnd } }
       else emit (.rxChecksumReject s.rx.acc b) { s with rx := { s.rx with phase := .awaitStart } }))

/-- ACCEPT, R120: copy the payload, set the length, put the ACK. None if the copy leaves a buffer (R202). -/
def accept (s : State) : Option State :=
  match copyPrefix s.rx.expLen.toNat s.rx.pbuf s.rbuf with
  | none => none
  | some rbuf => some (putRev wireAck { s with rbuf := rbuf, rlen := s.rx.expLen })

/-- RX.AWAIT_END, R119. -/
def execRxAwaitEnd (s : State) : Result :=
  move s fun s =>
    let (b, s) := takeFwd s
    if b = wireEnd then
      match accept s with
      | none => .refused (.bufferIndex (s.rx.expLen.toNat - 1))
      | some s => .next (rxReturn .progressed (emit (.rxAccept s.rx.expLen) { s with rx := { s.rx with phase := .awaitStart } }))
    else .next (rxReturn .progressed (emit (.rxEndReject b) { s with rx := { s.rx with phase := .awaitStart } }))

end Sys2Proof.Machine
end

