-- ==== Sys2Proof/Machine/Sender.lean ====
section
/-! DEFINITION. The sender's phase handlers (spec/42_sender.md). -/

namespace Sys2Proof.Machine

/-- One emission of R143 to R147: put the byte, record it, report progress. -/
def emitByte (b : Byte) (s : State) : State := txReturn .progressed (emit (.txByte b) (putFwd b s))

/-- TX.IDLE, R151. -/
def execTxIdle (s : State) : Result :=
  move s fun s => .next (txReturn .waiting s)

/-- TX.EMIT_START, R143. -/
def execTxEmitStart (s : State) : Result :=
  move s fun s => .next (emitByte wireStart { s with tx := { s.tx with idx := 0, phase := .emitLength } })

/-- TX.EMIT_LENGTH, R144. -/
def execTxEmitLength (s : State) : Result :=
  move s fun s =>
    let phase := if 0 < s.tx.len.toNat then .emitPayload else .emitChecksum
    .next (emitByte s.tx.len { s with tx := { s.tx with phase := phase } })

/-- TX.EMIT_PAYLOAD, R145. An index outside `txbuf` is refused (R202). -/
def execTxEmitPayload (s : State) : Result :=
  move s fun s =>
    match readBuf s.tx.txbuf s.tx.idx.toNat with
    | none => .refused (.bufferIndex s.tx.idx.toNat)
    | some v =>
      let i := s.tx.idx + 1
      let phase := if i = s.tx.len then .emitChecksum else s.tx.phase
      .next (emitByte v { s with tx := { s.tx with idx := i, phase := phase } })

/-- TX.EMIT_CHECKSUM, R146. -/
def execTxEmitChecksum (s : State) : Result :=
  move s fun s => .next (emitByte s.tx.chk { s with tx := { s.tx with phase := .emitEnd } })

/-- TX.EMIT_END, R147. -/
def execTxEmitEnd (s : State) : Result :=
  move s fun s => .next (emitByte wireEnd { s with tx := { s.tx with phase := .waitEntry } })

/-- The first half of R150: take a byte from REV if there is one; the ACK is recorded, any other byte is dropped
(decision D5). -/
def pollRev (s : State) : Bool × State :=
  if slotAvail s.rev then
    let (r, s) := takeRev s
    if r = wireAck then (true, emit .txAck s) else (false, emit (.txDiscard r) s)
  else (false, s)

/-- WAIT_CHECK(d), R150: the ACK wins over the timeout (decision D6); a timeout retransmits and emits nothing in this step
(decision D8). -/
def waitCheck (d : Nat) (s : State) : State :=
  let (acked, s) := pollRev s
  if acked then txReturn .completed { s with tx := { s.tx with phase := .done } }
  else if d ≤ s.clock then
    txReturn .progressed (emit .txTimeout { s with tx := { s.tx with retry := satInc s.tx.retry, phase := .emitStart } })
  else txReturn .waiting { s with tx := { s.tx with phase := .wait } }

/-- TX.WAIT_ENTRY, R148. A deadline outside a finite TICK_W is refused (R202, decision D30). -/
def execTxWaitEntry (s : State) : Result :=
  move s fun s =>
    if tickFits s.params s.clock then
      let d := s.clock + s.params.ackWaitPeriod
      .next (waitCheck d { s with tx := { s.tx with deadline := d } })
    else .refused .tickOverflow

/-- TX.WAIT, R149. -/
def execTxWait (s : State) : Result :=
  move s fun s => .next (waitCheck s.tx.deadline s)

/-- TX.DONE, R152. -/
def execTxDone (s : State) : Result :=
  move s fun s => .next (txReturn .completed s)

end Sys2Proof.Machine
end

