-- ==== Sys2Proof/Machine/Dispatch.lean ====
section
/-! DEFINITION. One arm per operation: the meaning of every row of spec/opcode_table.json. -/

namespace Sys2Proof.Machine

def exec (i : Instr) (s : State) : Host.Outcome State Fault Refusal :=
  match i with
  -- the receiver's handlers
  | .rxNobyte => Sys2Proof.Machine.execRxNobyte s
  | .rxAwaitStart => Sys2Proof.Machine.execRxAwaitStart s
  | .rxReadLength => Sys2Proof.Machine.execRxReadLength s
  | .rxReadPayload => Sys2Proof.Machine.execRxReadPayload s
  | .rxVerifyChecksum => Sys2Proof.Machine.execRxVerifyChecksum s
  | .rxAwaitEnd => Sys2Proof.Machine.execRxAwaitEnd s
  -- the sender's handlers
  | .txIdle => Sys2Proof.Machine.execTxIdle s
  | .txEmitStart => Sys2Proof.Machine.execTxEmitStart s
  | .txEmitLength => Sys2Proof.Machine.execTxEmitLength s
  | .txEmitPayload => Sys2Proof.Machine.execTxEmitPayload s
  | .txEmitChecksum => Sys2Proof.Machine.execTxEmitChecksum s
  | .txEmitEnd => Sys2Proof.Machine.execTxEmitEnd s
  | .txWaitEntry => Sys2Proof.Machine.execTxWaitEntry s
  | .txWait => Sys2Proof.Machine.execTxWait s
  | .txDone => Sys2Proof.Machine.execTxDone s
  -- the host's commands and the environment's moves
  | .reset => Sys2Proof.Machine.execReset s
  | .txStart len payload => Sys2Proof.Machine.execTxStart len payload s
  | .tick => Sys2Proof.Machine.execTick s
  | .envPutFwd b => Sys2Proof.Machine.execEnvPutFwd b s
  | .envTakeFwd => Sys2Proof.Machine.execEnvTakeFwd s
  | .envPutRev b => Sys2Proof.Machine.execEnvPutRev b s
  | .envTakeRev => Sys2Proof.Machine.execEnvTakeRev s

end Sys2Proof.Machine
end

