-- ==== Sys2Proof/Machine/Fetch.lean ====
section
/-! DEFINITION. How a move becomes an operation: a resumption of an agent is dispatched by the selector the state gives
(spec/30_encoding.md R88, R89; spec/41_receiver.md R110, spec/42_sender.md R142), a command by its code (R90). Beside it
stands the placing of a table word as the next move (log entry 9). -/

namespace Sys2Proof.Machine

/-- The refusal of an encoding that decoding rejects (R91). -/
def refusalOf : DecodeError → Refusal
  | .reservedSelector w => .reservedSelector w
  | .reservedCommand code => .reservedCommand code
  | .operandCount code got => .operandCount code got

/-- What a move is encoded as, in a given state (R88, R90). -/
def encodedMove (s : State) : Move → Encoded
  | .stepRx => .selector (rxSelector s)
  | .stepTx => .selector (txSelector s)
  | .command code operands => .command code operands

/-- The operation a move performs, or the refusal of its encoding. -/
def fetch (s : State) (m : Move) : Except Refusal Instr :=
  match decode (encodedMove s m) with
  | .ok i => .ok i
  | .error e => .error (refusalOf e)

/-- A slot whose flag a selector bit asks for; a byte it then holds is an operand, and the table's words give operands
the value 0. -/
def slotForSelector (avail : Bool) (sl : Slot) : Slot :=
  { sl with avail := avail, data := if avail then 0 else sl.data }

/-- The state whose next receiver step has the selector {0, avail, 0, phase}. A phase code no register can hold (R91) is
left out; RX.NOBYTE does not read it. -/
def placeRx (avail : Bool) (phase : BitVec 3) (s : State) : State :=
  { s with
    fwd := slotForSelector avail s.fwd
    rx := { s.rx with phase := (rxPhaseOfCode phase).getD s.rx.phase }
    sched := .stepRx :: s.sched }

/-- The state whose next sender step has the selector {1, avail, phase}. -/
def placeTx (avail : Bool) (phase : BitVec 4) (s : State) : State :=
  { s with
    rev := slotForSelector avail s.rev
    tx := { s.tx with phase := (txPhaseOfCode phase).getD s.tx.phase }
    sched := .stepTx :: s.sched }

/-- The state whose next move is the one an encoding stands for. A selector is no stored word (R88), so placing it sets
what it is computed from. A selector that no state has (R91) changes nothing. -/
def placeEncoded (e : Encoded) (s : State) : State :=
  match e with
  | .command code operands => { s with sched := .command code operands :: s.sched }
  | .selector w =>
    match decodeSelector w with
    | .error _ => s
    | .ok _ =>
      if w.getLsbD 5 then placeTx (w.getLsbD 4) (w.extractLsb' 0 4) s
      else placeRx (w.getLsbD 4) (w.extractLsb' 0 3) s

/-- A table word placed as the next move; a number that is no word of the table changes nothing. -/
def placeWord (s : State) (nbits w : Nat) : State :=
  match tableWord nbits w with
  | none => s
  | some e => placeEncoded e s

end Sys2Proof.Machine
end

