-- ==== Sys2Proof/Machine/Program.lean ====
section
/-! DEFINITION. The program notation of spec/30_encoding.md R94 and the pseudo-operations of spec/43_environment.md R190,
as functions that build lists of moves. -/

namespace Sys2Proof.Machine

/-- R94: `RESET`. -/
def Program.reset : Move := .command 0x0 []

/-- R94: `TX_START [p0 p1 ...]`; the length is the number of bytes given. -/
def Program.txStart (payload : List Byte) : Move := .command 0x1 (BitVec.ofNat 8 payload.length :: payload)

/-- R94: `TICK`. -/
def Program.tick : Move := .command 0x2 []

/-- R94: `PUT_FWD bb`. -/
def Program.putFwd (b : Byte) : Move := .command 0x3 [b]

/-- R94: `TAKE_FWD`. -/
def Program.takeFwd : Move := .command 0x4 []

/-- R94: `PUT_REV bb`. -/
def Program.putRev (b : Byte) : Move := .command 0x5 [b]

/-- R94: `TAKE_REV`. -/
def Program.takeRev : Move := .command 0x6 []

/-- R190: `CYCLE`, the sender first. -/
def Program.cycle : List Move := [.stepTx, .stepRx, Program.tick]

/-- R190: `CYCLE_RT`, the receiver first. -/
def Program.cycleRt : List Move := [.stepRx, .stepTx, Program.tick]

/-- R190: `FEED bb`. -/
def Program.feed (b : Byte) : List Move := [Program.putFwd b, .stepRx]

/-- R190: `FEED [b0 b1 ... bn]`. -/
def Program.feedAll (bs : List Byte) : List Move := bs.flatMap Program.feed

/-- R190: `REPEAT n { ops }`. -/
def Program.repeatOps (n : Nat) (ops : List Move) : List Move := (List.replicate n ops).flatten

end Sys2Proof.Machine
end

