-- ==== Sys2Proof/Machine/Schedule.lean ====
section
/-! DEFINITION. One move of a run, and runs without an end: spec/43_environment.md R181 (a run is a sequence of moves, any
possible move may come next), R187 (every interleaving) and R188 (weak fairness). The infinite schedule is no field of
State, which is plain data: it is what a claim about infinite runs quantifies over (log entry 2). -/

namespace Sys2Proof.Machine

/-- R181, R201: one move, fetched and executed. In a state with a fault it answers no next state, nor when it raises one. -/
def perform (m : Move) (s : State) : Result :=
  match fetch s m with
  | .ok i => stopOnFault (exec i s)
  | .error r => .refused r

/-- R181: an infinite run: the moves taken, and the state before each. -/
def IsInfiniteRun (moves : Nat → Move) (states : Nat → State) : Prop :=
  ∀ n, perform (moves n) (states n) = .next (states (n + 1))

/-- R188: a move that is taken infinitely often. -/
def TakenInfinitelyOften (m : Move) (moves : Nat → Move) : Prop := ∀ n, ∃ k, n ≤ k ∧ moves k = m

/-- R188: weak fairness of `RX_STEP`, `TX_STEP` and `TICK`: each is taken infinitely often. -/
def WeaklyFair (moves : Nat → Move) : Prop :=
  TakenInfinitelyOften .stepRx moves ∧ TakenInfinitelyOften .stepTx moves ∧ TakenInfinitelyOften Program.tick moves

end Sys2Proof.Machine
end

