-- ==== Sys2Proof/Machine/Step.lean ====
section
/-! DEFINITION. One step of the closed model: the next move of the schedule (spec/43_environment.md R181), one atomic
transition (spec/20_memory.md R70, R73). -/

namespace Sys2Proof.Machine

/-- R42: a faulted state has no further step. With no move to come nothing happens: an agent that is not resumed is
frozen with all its state kept (R216, log entry 2). Otherwise the next move is taken from the schedule and performed; a
move that raises a fault stops the machine, so that no run ends in a faulted state (R201, log entry 12). -/
def step (s : State) : Host.Outcome State Fault Refusal :=
  match s.fault with
  | some f => .fault f
  | none =>
    match s.sched with
    | [] => .next s
    | m :: rest => perform m { s with sched := rest }

/-- A word of spec/opcode_table.json placed as the next move (log entry 9). -/
def State.withFetchWord (s : State) (nbits w : Nat) : State := placeWord s nbits w

end Sys2Proof.Machine
end

