-- ==== Sys2Proof/Machine/Interface.lean ====
section
/-! DEFINITION. The block's outputs that are views of registers (spec/10_state.md R44) and the host's reads (R46, R66,
R189): observations without side effect. -/

namespace Sys2Proof.Machine

/-- R44: `rx_phase_o`. -/
def rxPhaseO (s : State) : BitVec 3 := s.rx.phase.code

/-- R44: `tx_phase_o`. -/
def txPhaseO (s : State) : BitVec 4 := s.tx.phase.code

/-- R44: `rlen_o`. -/
def rlenO (s : State) : Byte := s.rlen

/-- R44: `rbuf_o`, 8*CAP bits, byte `i` on bits [8i+7:8i]. -/
def rbufO (s : State) : Nat := packBytes s.rbuf

/-- R44: `tx_retry_o`. -/
def txRetryO (s : State) : RetryCount := s.tx.retry

/-- R40: `Tick()`, the input `tick`. -/
def tickIn (s : State) : Nat := s.clock

/-- R46, R66: what the host or the environment may read. -/
inductive Reg where
  | rxPhase | rxExpLen | rxCount | rxAcc
  | pbuf (i : Nat)
  | rbuf (i : Nat)
  | rlen
  | txPhase | txLen
  | txbuf (i : Nat)
  | txChk | txIdx | txRetry | txDeadline
  | fwdAvail | fwdData | revAvail | revData
  deriving DecidableEq, Repr

/-- R46: a register read as a number; none for a buffer element outside 0..CAP-1 (R60). -/
def hostRead (s : State) : Reg → Option Nat
  | .rxPhase => some s.rx.phase.code.toNat
  | .rxExpLen => some s.rx.expLen.toNat
  | .rxCount => some s.rx.count.toNat
  | .rxAcc => some s.rx.acc.toNat
  | .pbuf i => (readBuf s.rx.pbuf i).map (·.toNat)
  | .rbuf i => (readBuf s.rbuf i).map (·.toNat)
  | .rlen => some s.rlen.toNat
  | .txPhase => some s.tx.phase.code.toNat
  | .txLen => some s.tx.len.toNat
  | .txbuf i => (readBuf s.tx.txbuf i).map (·.toNat)
  | .txChk => some s.tx.chk.toNat
  | .txIdx => some s.tx.idx.toNat
  | .txRetry => some s.tx.retry.toNat
  | .txDeadline => some s.tx.deadline
  | .fwdAvail => some s.fwd.avail.toNat
  | .fwdData => some s.fwd.data.toNat
  | .revAvail => some s.rev.avail.toNat
  | .revData => some s.rev.data.toNat

end Sys2Proof.Machine
end

