-- ==== Sys2Proof/Safety.lean ====
section
/-! DEFINITION. The terms statements about runs use: when a move is possible (spec/43_environment.md R181), the invariants
of reachable states (spec/10_state.md R50), completion and quiescence (spec/43_environment.md R191), final states and
observations of runs (spec/60_exceptions.md R201), and agreement of two states up to bytes that no rule reads
(spec/10_state.md R25, R32, R52). -/

namespace Sys2Proof

/-- The operations that are receiver steps (R110). -/
def Instr.isReceiver : Instr → Bool
  | .rxNobyte | .rxAwaitStart | .rxReadLength | .rxReadPayload | .rxVerifyChecksum | .rxAwaitEnd => true
  | .txIdle | .txEmitStart | .txEmitLength | .txEmitPayload | .txEmitChecksum | .txEmitEnd => false
  | .txWaitEntry | .txWait | .txDone => false
  | .reset | .txStart _ _ | .tick | .envPutFwd _ | .envTakeFwd | .envPutRev _ | .envTakeRev => false

/-- The sender's emitting steps (R143 to R147). -/
def Instr.isEmission : Instr → Bool
  | .txEmitStart | .txEmitLength | .txEmitPayload | .txEmitChecksum | .txEmitEnd => true
  | .txIdle | .txWaitEntry | .txWait | .txDone => false
  | .rxNobyte | .rxAwaitStart | .rxReadLength | .rxReadPayload | .rxVerifyChecksum | .rxAwaitEnd => false
  | .reset | .txStart _ _ | .tick | .envPutFwd _ | .envTakeFwd | .envPutRev _ | .envTakeRev => false

/-- The sender's wait steps (R148, R149). -/
def Instr.isWait : Instr → Bool
  | .txWaitEntry | .txWait => true
  | .txIdle | .txEmitStart | .txEmitLength | .txEmitPayload | .txEmitChecksum | .txEmitEnd | .txDone => false
  | .rxNobyte | .rxAwaitStart | .rxReadLength | .rxReadPayload | .rxVerifyChecksum | .rxAwaitEnd => false
  | .reset | .txStart _ _ | .tick | .envPutFwd _ | .envTakeFwd | .envPutRev _ | .envTakeRev => false

/-- The operations that are sender steps (R142). -/
def Instr.isSender (i : Instr) : Bool := i.isEmission || i.isWait || i == .txIdle || i == .txDone

/-- TX_START, whatever its operands. -/
def Instr.isStart : Instr → Bool
  | .txStart _ _ => true
  | .rxNobyte | .rxAwaitStart | .rxReadLength | .rxReadPayload | .rxVerifyChecksum | .rxAwaitEnd => false
  | .txIdle | .txEmitStart | .txEmitLength | .txEmitPayload | .txEmitChecksum | .txEmitEnd => false
  | .txWaitEntry | .txWait | .txDone => false
  | .reset | .tick | .envPutFwd _ | .envTakeFwd | .envPutRev _ | .envTakeRev => false

/-- ENV_PUT_FWD, whatever its operand. -/
def Instr.isPutFwd : Instr → Bool
  | .envPutFwd _ => true
  | .rxNobyte | .rxAwaitStart | .rxReadLength | .rxReadPayload | .rxVerifyChecksum | .rxAwaitEnd => false
  | .txIdle | .txEmitStart | .txEmitLength | .txEmitPayload | .txEmitChecksum | .txEmitEnd => false
  | .txWaitEntry | .txWait | .txDone => false
  | .reset | .txStart _ _ | .tick | .envTakeFwd | .envPutRev _ | .envTakeRev => false

/-- ENV_PUT_REV, whatever its operand. -/
def Instr.isPutRev : Instr → Bool
  | .envPutRev _ => true
  | .rxNobyte | .rxAwaitStart | .rxReadLength | .rxReadPayload | .rxVerifyChecksum | .rxAwaitEnd => false
  | .txIdle | .txEmitStart | .txEmitLength | .txEmitPayload | .txEmitChecksum | .txEmitEnd => false
  | .txWaitEntry | .txWait | .txDone => false
  | .reset | .txStart _ _ | .tick | .envPutFwd _ | .envTakeFwd | .envTakeRev => false

end Sys2Proof

namespace Sys2Proof.Machine

/-- R181, R202: a move is possible: there is no fault, and the parameters are in their ranges. -/
abbrev Enabled (s : State) : Prop := s.fault = none ∧ paramsOk s.params = true

/-- A state is safe as long as the host has not misused TX_START (R201). -/
def Safe (s : State) : Prop := s.fault = none

/-- R191: the instance is complete. -/
def InstanceComplete (s : State) : Prop := s.tx.phase = .done

/-- R191: a quiescent state. -/
def Quiescent (s : State) : Prop :=
  s.fault = none ∧ s.fwd.avail = false ∧ s.rev.avail = false ∧ s.rx.phase = .awaitStart ∧
    (s.tx.phase = .idle ∨ s.tx.phase = .done)

/-- The receiver is inside a frame whose LENGTH it has accepted. -/
def RxPhase.inFrame : RxPhase → Bool
  | .readPayload | .verifyChecksum | .awaitEnd => true
  | .awaitStart | .readLength => false

/-- The sender has put the whole payload of the current attempt. -/
def TxPhase.afterPayload : TxPhase → Bool
  | .emitChecksum | .emitEnd | .waitEntry | .wait | .done => true
  | .idle | .emitStart | .emitLength | .emitPayload => false

/-- R50, the receiver's clauses. The clause on `readLength` is the model's strengthening of R50 (log entry 10): R112
leaves the counters cleared there, which makes the clauses after it inductive. -/
structure ReceiverInv (s : State) : Prop where
  readLength : s.rx.phase = .readLength → s.rx.count = 0 ∧ s.rx.acc = 0
  readPayload : s.rx.phase = .readPayload →
    1 ≤ s.rx.expLen.toNat ∧ s.rx.expLen.toNat ≤ s.params.cap ∧ s.rx.count.toNat < s.rx.expLen.toNat
  collected : s.rx.phase = .verifyChecksum ∨ s.rx.phase = .awaitEnd →
    s.rx.count = s.rx.expLen ∧ s.rx.expLen.toNat ≤ s.params.cap
  acc : s.rx.phase.inFrame = true → s.rx.acc = checksum (s.rx.pbuf.take s.rx.count.toNat)
  rlen : s.rlen.toNat ≤ s.params.cap

/-- R50, the sender's clauses. The clause on `emitLength` is the model's strengthening (log entry 10): R143 clears
`tx.idx`. -/
structure SenderInv (s : State) : Prop where
  latched : s.tx.phase ≠ .idle →
    s.tx.len.toNat ≤ s.params.cap ∧ s.tx.chk = checksum (s.tx.txbuf.take s.tx.len.toNat)
  emitLength : s.tx.phase = .emitLength → s.tx.idx = 0
  emitPayload : s.tx.phase = .emitPayload → s.tx.idx.toNat < s.tx.len.toNat
  emitted : s.tx.phase.afterPayload = true → s.tx.idx = s.tx.len

/-- The clock's clauses: it never lies before its start (R40, R182), it leaves room for the wait period in a finite
TICK_W (R6, decision D30), and the deadline is at most a wait period ahead of it (R148, R212). -/
structure ClockInv (s : State) : Prop where
  start : s.params.t0 ≤ s.clock
  fits : tickFits s.params s.clock = true
  deadline : s.tx.deadline ≤ s.clock + s.params.ackWaitPeriod

/-- The invariant of every reachable state (R50), with the buffers' canonical form (R60). -/
structure Inv (s : State) : Prop where
  params : paramsOk s.params = true
  memory : Memory.wf s
  receiver : ReceiverInv s
  sender : SenderInv s
  clock : ClockInv s

/-- Two slots that agree but for the data of an empty one (R64: no rule reads `s.data` while `s.avail` is false). -/
def SlotAgree (a b : Slot) : Prop :=
  a.avail = b.avail ∧ a.overrun = b.overrun ∧ (a.avail = true → a.data = b.data)

/-- Two states that agree but for bytes no rule of the block reads: `pbuf` at or above `rx.count`, or all of it outside a
frame (R25); `txbuf` at or above `tx.len`, or all of it before an instance (R32, R52); the data of an empty slot
(R64). -/
structure StaleAgree (s t : State) : Prop where
  rest : t = { s with
    rx := { s.rx with pbuf := t.rx.pbuf }, tx := { s.tx with txbuf := t.tx.txbuf }, fwd := t.fwd, rev := t.rev }
  fwd : SlotAgree s.fwd t.fwd
  rev : SlotAgree s.rev t.rev
  pbufLength : s.rx.pbuf.length = t.rx.pbuf.length
  txbufLength : s.tx.txbuf.length = t.tx.txbuf.length
  pbuf : s.rx.phase.inFrame = true → s.rx.pbuf.take s.rx.count.toNat = t.rx.pbuf.take s.rx.count.toNat
  txbuf : s.tx.phase ≠ .idle → s.tx.txbuf.take s.tx.len.toNat = t.tx.txbuf.take s.tx.len.toNat

/-- Two outcomes of one kind, next states related. -/
def OutcomeAgree (R : State → State → Prop) : Result → Result → Prop
  | .next s, .next t => R s t
  | .fault f, .fault g => f = g
  | .refused r, .refused q => r = q
  | _, _ => False

/-- `n` steps of the machine (R181). -/
abbrev run (n : Nat) (s : State) : Result := Host.Core.run Sys2Proof.core n s

/-- R201: the final state of a run of `n` moves. A faulted state never is one. -/
def FinalState (n : Nat) (s t : State) : Prop := run n s = .next t ∧ Safe t

/-- R201: an observation holds of a run if the run has a final state and the observation holds there. A run that faults
refutes every observation. -/
def Observed (n : Nat) (s : State) (observation : State → Prop) : Prop := ∃ t, FinalState n s t ∧ observation t

end Sys2Proof.Machine
end

