-- ==== Sys2Proof/Certificates/Slice0/Obligations.lean ====
section
/-! DEFINITION. The statements for the provers, in the order of OBLIGATIONS.json. -/

open Sys2Proof Sys2Proof.Machine

/-! ### Encodings -/

/-- R89: the dispatch table, row by row, with the table's own mask and match; a selector that matches no row is refused. -/
def Obligations.SelectorMatchesExactlyItsRow : Prop :=
  ∀ w : BitVec 6,
    (decodeSelector w = .ok .rxNobyte ↔ w &&& 0x30 = 0x00) ∧
    (decodeSelector w = .ok .rxAwaitStart ↔ w &&& 0x3F = 0x10) ∧
    (decodeSelector w = .ok .rxReadLength ↔ w &&& 0x3F = 0x11) ∧
    (decodeSelector w = .ok .rxReadPayload ↔ w &&& 0x3F = 0x12) ∧
    (decodeSelector w = .ok .rxVerifyChecksum ↔ w &&& 0x3F = 0x13) ∧
    (decodeSelector w = .ok .rxAwaitEnd ↔ w &&& 0x3F = 0x14) ∧
    (decodeSelector w = .ok .txIdle ↔ w &&& 0x2F = 0x20) ∧
    (decodeSelector w = .ok .txEmitStart ↔ w &&& 0x2F = 0x21) ∧
    (decodeSelector w = .ok .txEmitLength ↔ w &&& 0x2F = 0x22) ∧
    (decodeSelector w = .ok .txEmitPayload ↔ w &&& 0x2F = 0x23) ∧
    (decodeSelector w = .ok .txEmitChecksum ↔ w &&& 0x2F = 0x24) ∧
    (decodeSelector w = .ok .txEmitEnd ↔ w &&& 0x2F = 0x25) ∧
    (decodeSelector w = .ok .txWaitEntry ↔ w &&& 0x2F = 0x26) ∧
    (decodeSelector w = .ok .txWait ↔ w &&& 0x2F = 0x27) ∧
    (decodeSelector w = .ok .txDone ↔ w &&& 0x2F = 0x28) ∧
    (decodeSelector w = .error (.reservedSelector w) ↔
      (w &&& 0x30 = 0x10 ∧ 5 ≤ (w &&& 0x0F).toNat) ∨ (w &&& 0x20 = 0x20 ∧ 9 ≤ (w &&& 0x0F).toNat))

/-- R90: the seven command codes with their operands; R91's sentence on the codes 0x7 to 0xF: they name no operation and are
refused by name. -/
def Obligations.CommandCodeNamesItsOperation : Prop :=
  decodeCommand 0x0 [] = .ok .reset ∧
  (∀ (len : Byte) (p : List Byte), p.length = len.toNat → decodeCommand 0x1 (len :: p) = .ok (.txStart len p)) ∧
  decodeCommand 0x2 [] = .ok .tick ∧
  (∀ b : Byte, decodeCommand 0x3 [b] = .ok (.envPutFwd b)) ∧
  decodeCommand 0x4 [] = .ok .envTakeFwd ∧
  (∀ b : Byte, decodeCommand 0x5 [b] = .ok (.envPutRev b)) ∧
  decodeCommand 0x6 [] = .ok .envTakeRev ∧
  (∀ (code : BitVec 4) (ops : List Byte), 7 ≤ code.toNat → decodeCommand code ops = .error (.reservedCommand code))

/-- Every well-formed operation, with every operand at every value, is read back from its encoding. -/
def Obligations.DecodeOfEncodeIsTheInstruction : Prop :=
  ∀ i : Instr, i.wf = true → decode (encode i) = .ok i

/-- A command that decodes is well formed and is the one encoding of its operation: no bit of it is dropped. That a command
with other or further operand bytes does not decode is the model's choice (log entry 8). -/
def Obligations.EncodeOfDecodedCommandIsTheCommand : Prop :=
  ∀ (code : BitVec 4) (ops : List Byte) (i : Instr),
    decodeCommand code ops = .ok i → encode i = .command code ops ∧ i.wf = true

/-- A few words of spec/opcode_table.json, written out from R89 and R90, read as the operation they stand for. How a
command's bytes lie in a word is the model's choice (log entry 9). -/
def Obligations.TableWordsReadAsTheirRows : Prop :=
  decodeTableWord 6 0b000000 = some .rxNobyte ∧
  decodeTableWord 6 0b010010 = some .rxReadPayload ∧
  decodeTableWord 6 0b100110 = some .txWaitEntry ∧
  decodeTableWord 6 0b110110 = some .txWaitEntry ∧
  decodeTableWord 8 0b00010100 = some .rxAwaitEnd ∧
  decodeTableWord 4 0b0000 = some .reset ∧
  decodeTableWord 8 0b0001 = some (.txStart 0 []) ∧
  decodeTableWord 24 0xFE0101 = some (.txStart 1 [0xFE]) ∧
  decodeTableWord 4 0b0110 = some .envTakeRev

/-- R44, R93: TX_START's payload bytes are read from their places on the bus, byte i on bits [8i+7:8i], whatever stands on
the bus above them. -/
def Obligations.PayloadBusCarriesByteIAtBit8I : Prop :=
  ∀ (p rest : List Byte) (len : Byte), p.length = len.toNat → startSignals len (packBytes (p ++ rest)) = len :: p

/-- R85, R86: the phase codes; the reserved codes are those of no phase. -/
def Obligations.PhaseCodesAreThoseOfTheTables : Prop :=
  ([RxPhase.awaitStart, .readLength, .readPayload, .verifyChecksum, .awaitEnd].map RxPhase.code = [0, 1, 2, 3, 4]) ∧
  ([TxPhase.idle, .emitStart, .emitLength, .emitPayload, .emitChecksum, .emitEnd, .waitEntry, .wait, .done].map TxPhase.code =
    [0, 1, 2, 3, 4, 5, 6, 7, 8]) ∧
  (∀ c : BitVec 3, rxPhaseOfCode c = none ↔ 5 ≤ c.toNat) ∧ (∀ p : RxPhase, rxPhaseOfCode p.code = some p) ∧
  (∀ c : BitVec 4, txPhaseOfCode c = none ↔ 9 ≤ c.toNat) ∧ ∀ p : TxPhase, txPhaseOfCode p.code = some p

/-- R88: the selectors, field by field, from the state. -/
def Obligations.SelectorIsComputedFromTheState : Prop :=
  ∀ s : State,
    (rxSelector s).getLsbD 5 = false ∧ (rxSelector s).getLsbD 4 = s.fwd.avail ∧
      (rxSelector s).extractLsb' 0 4 = s.rx.phase.code.setWidth 4 ∧
    (txSelector s).getLsbD 5 = true ∧ (txSelector s).getLsbD 4 = s.rev.avail ∧
      (txSelector s).extractLsb' 0 4 = s.tx.phase.code

/-- R44: the outputs that are views of registers. `rbuf_o` carries element `i` on bits [8i+7:8i], and no bit above the last
element; the phase outputs name the phase. -/
def Obligations.OutputsAreViewsOfTheirRegisters : Prop :=
  ∀ s : State,
    (∀ (i : Nat) (h : i < s.rbuf.length), byteOf (rbufO s) i = s.rbuf[i]) ∧ rbufO s < 2 ^ (8 * s.rbuf.length) ∧
    rxPhaseOfCode (rxPhaseO s) = some s.rx.phase ∧ txPhaseOfCode (txPhaseO s) = some s.tx.phase ∧
    rlenO s = s.rlen ∧ txRetryO s = s.tx.retry

/-! ### The step -/

/-- The next move of the schedule (the model's choice, log entry 2), once decoded to `i`, is executed as `i` in the state whose
schedule has moved past it; if it raises a fault, the machine stops with that fault (R201, log entry 12). -/
def Obligations.StepExecutesTheDecodedMove : Prop :=
  ∀ (s : State) (rest : List Move) (i : Instr), s.fault = none →
    (s.sched = .stepRx :: rest → decodeSelector (rxSelector s) = .ok i →
      step s = stopOnFault (exec i { s with sched := rest })) ∧
    (s.sched = .stepTx :: rest → decodeSelector (txSelector s) = .ok i →
      step s = stopOnFault (exec i { s with sched := rest })) ∧
    (∀ (code : BitVec 4) (ops : List Byte), s.sched = .command code ops :: rest → decodeCommand code ops = .ok i →
      step s = stopOnFault (exec i { s with sched := rest }))

/-- R110: the receiver's step: NOBYTE when FWD is empty, otherwise the handler of the phase; the byte is taken, once. -/
def Obligations.ReceiverStepDispatchesOnPhase : Prop :=
  ∀ (s : State) (rest : List Move), s.fault = none → s.sched = .stepRx :: rest →
    step s = exec (if s.fwd.avail then
        match s.rx.phase with
        | .awaitStart => .rxAwaitStart
        | .readLength => .rxReadLength
        | .readPayload => .rxReadPayload
        | .verifyChecksum => .rxVerifyChecksum
        | .awaitEnd => .rxAwaitEnd
      else .rxNobyte) { s with sched := rest } ∧
    ∀ t, step s = .next t → t.fwd = { s.fwd with avail := false } ∧ t.out.fwdTake = s.fwd.avail

/-- R142: the sender's step: the handler of the phase, whatever REV holds; at most one byte is put or one taken. -/
def Obligations.SenderStepDispatchesOnPhase : Prop :=
  ∀ (s : State) (rest : List Move), s.fault = none → s.sched = .stepTx :: rest →
    step s = exec (match s.tx.phase with
        | .idle => .txIdle
        | .emitStart => .txEmitStart
        | .emitLength => .txEmitLength
        | .emitPayload => .txEmitPayload
        | .emitChecksum => .txEmitChecksum
        | .emitEnd => .txEmitEnd
        | .waitEntry => .txWaitEntry
        | .wait => .txWait
        | .done => .txDone) { s with sched := rest } ∧
    ∀ t, step s = .next t → ¬ (t.out.fwdPut = true ∧ t.out.revTake = true)

/-- I14, R216 and the model's choice (log entry 2): with no move to come, the state stays as it is. -/
def Obligations.NoMoveLeavesTheStateFrozen : Prop :=
  ∀ s : State, s.fault = none → s.sched = [] → step s = .next s

/-! ### The receiver's handlers -/

/-- R111. -/
def Obligations.NobyteReturnsWaitingAndChangesNothing : Prop :=
  ∀ s : State, Enabled s →
    exec .rxNobyte s = .next { s with out := { StepOut.zero with rxStatus := 0b00 } }

/-- R112. -/
def Obligations.AwaitStartLooksForTheStartMarker : Prop :=
  ∀ s : State, Enabled s →
    (s.fwd.data = 0x02 →
      exec .rxAwaitStart s = .next { s with
        fwd := { s.fwd with avail := false }
        rx := { s.rx with count := 0, acc := 0x00, phase := .readLength }
        trace := s.trace ++ [.rxStart]
        out := { StepOut.zero with fwdTake := true, rxStatus := 0b01 } }) ∧
    (s.fwd.data ≠ 0x02 →
      exec .rxAwaitStart s = .next { s with
        fwd := { s.fwd with avail := false }
        trace := s.trace ++ [.rxNoise s.fwd.data]
        out := { StepOut.zero with fwdTake := true, rxStatus := 0b01 } })

/-- R113. -/
def Obligations.ReadLengthRecordsTheLength : Prop :=
  ∀ s : State, Enabled s →
    (s.params.cap < s.fwd.data.toNat →
      exec .rxReadLength s = .next { s with
        fwd := { s.fwd with avail := false }
        rx := { s.rx with expLen := s.fwd.data, phase := .awaitStart }
        trace := s.trace ++ [.rxLengthReject s.fwd.data]
        out := { StepOut.zero with fwdTake := true, rxStatus := 0b01 } }) ∧
    (s.fwd.data = 0 →
      exec .rxReadLength s = .next { s with
        fwd := { s.fwd with avail := false }
        rx := { s.rx with expLen := 0, phase := .verifyChecksum }
        trace := s.trace ++ [.rxLength 0]
        out := { StepOut.zero with fwdTake := true, rxStatus := 0b01 } }) ∧
    (s.fwd.data ≠ 0 → s.fwd.data.toNat ≤ s.params.cap →
      exec .rxReadLength s = .next { s with
        fwd := { s.fwd with avail := false }
        rx := { s.rx with expLen := s.fwd.data, phase := .readPayload }
        trace := s.trace ++ [.rxLength s.fwd.data]
        out := { StepOut.zero with fwdTake := true, rxStatus := 0b01 } })

/-- R115. -/
def Obligations.ReadPayloadCollectsOneByte : Prop :=
  ∀ s : State, Enabled s → s.rx.count.toNat < s.rx.pbuf.length →
    exec .rxReadPayload s = .next { s with
      fwd := { s.fwd with avail := false }
      rx := { s.rx with
        pbuf := s.rx.pbuf.set s.rx.count.toNat s.fwd.data
        acc := s.rx.acc ^^^ s.fwd.data
        count := s.rx.count + 1
        phase := if s.rx.count + 1 = s.rx.expLen then .verifyChecksum else s.rx.phase }
      trace := s.trace ++ [.rxPayload s.fwd.data]
      out := { StepOut.zero with fwdTake := true, rxStatus := 0b01 } }

/-- R117. -/
def Obligations.VerifyChecksumComparesWithTheFold : Prop :=
  ∀ s : State, Enabled s →
    (s.fwd.data = s.rx.acc →
      exec .rxVerifyChecksum s = .next { s with
        fwd := { s.fwd with avail := false }
        rx := { s.rx with phase := .awaitEnd }
        trace := s.trace ++ [.rxChecksumOk]
        out := { StepOut.zero with fwdTake := true, rxStatus := 0b01 } }) ∧
    (s.fwd.data ≠ s.rx.acc →
      exec .rxVerifyChecksum s = .next { s with
        fwd := { s.fwd with avail := false }
        rx := { s.rx with phase := .awaitStart }
        trace := s.trace ++ [.rxChecksumReject s.rx.acc s.fwd.data]
        out := { StepOut.zero with fwdTake := true, rxStatus := 0b01 } })

/-- R119, R120: on END the payload is copied, the rest of the result buffer kept, the length recorded and the ACK put; any
other byte discards the frame. The receiver returns to AwaitStart either way. -/
def Obligations.AwaitEndAcceptsOrDiscards : Prop :=
  ∀ s : State, Enabled s →
    (s.fwd.data = 0x03 → s.rx.expLen.toNat ≤ s.rx.pbuf.length → s.rx.expLen.toNat ≤ s.rbuf.length →
      exec .rxAwaitEnd s = .next { s with
        fwd := { s.fwd with avail := false }
        rbuf := s.rx.pbuf.take s.rx.expLen.toNat ++ s.rbuf.drop s.rx.expLen.toNat
        rlen := s.rx.expLen
        rev := { avail := true, data := 0x06, overrun := s.rev.overrun || s.rev.avail }
        rx := { s.rx with phase := .awaitStart }
        trace := s.trace ++ [.rxAccept s.rx.expLen]
        out := { StepOut.zero with fwdTake := true, revPut := true, revPutData := 0x06, rxStatus := 0b01 } }) ∧
    (s.fwd.data ≠ 0x03 →
      exec .rxAwaitEnd s = .next { s with
        fwd := { s.fwd with avail := false }
        rx := { s.rx with phase := .awaitStart }
        trace := s.trace ++ [.rxEndReject s.fwd.data]
        out := { StepOut.zero with fwdTake := true, rxStatus := 0b01 } })

/-! ### The sender's handlers -/

/-- R151, R152. -/
def Obligations.IdleAndDoneChangeNothing : Prop :=
  ∀ s : State, Enabled s →
    exec .txIdle s = .next { s with out := { StepOut.zero with txStatus := 0b00 } } ∧
    exec .txDone s = .next { s with out := { StepOut.zero with txStatus := 0b10 } }

/-- R143, R146, R147: the three emissions without a choice. -/
def Obligations.EmitStartChecksumEndPutTheirByte : Prop :=
  ∀ s : State, Enabled s →
    exec .txEmitStart s = .next { s with
      fwd := { avail := true, data := 0x02, overrun := s.fwd.overrun || s.fwd.avail }
      tx := { s.tx with idx := 0, phase := .emitLength }
      trace := s.trace ++ [.txByte 0x02]
      out := { StepOut.zero with fwdPut := true, fwdPutData := 0x02, txStatus := 0b01 } } ∧
    exec .txEmitChecksum s = .next { s with
      fwd := { avail := true, data := s.tx.chk, overrun := s.fwd.overrun || s.fwd.avail }
      tx := { s.tx with phase := .emitEnd }
      trace := s.trace ++ [.txByte s.tx.chk]
      out := { StepOut.zero with fwdPut := true, fwdPutData := s.tx.chk, txStatus := 0b01 } } ∧
    exec .txEmitEnd s = .next { s with
      fwd := { avail := true, data := 0x03, overrun := s.fwd.overrun || s.fwd.avail }
      tx := { s.tx with phase := .waitEntry }
      trace := s.trace ++ [.txByte 0x03]
      out := { StepOut.zero with fwdPut := true, fwdPutData := 0x03, txStatus := 0b01 } }

/-- R144. -/
def Obligations.EmitLengthPutsTheLength : Prop :=
  ∀ s : State, Enabled s →
    exec .txEmitLength s = .next { s with
      fwd := { avail := true, data := s.tx.len, overrun := s.fwd.overrun || s.fwd.avail }
      tx := { s.tx with phase := if s.tx.len = 0 then .emitChecksum else .emitPayload }
      trace := s.trace ++ [.txByte s.tx.len]
      out := { StepOut.zero with fwdPut := true, fwdPutData := s.tx.len, txStatus := 0b01 } }

/-- R145. -/
def Obligations.EmitPayloadPutsTheNextByte : Prop :=
  ∀ (s : State) (v : Byte), Enabled s → s.tx.txbuf[s.tx.idx.toNat]? = some v →
    exec .txEmitPayload s = .next { s with
      fwd := { avail := true, data := v, overrun := s.fwd.overrun || s.fwd.avail }
      tx := { s.tx with
        idx := s.tx.idx + 1
        phase := if s.tx.idx + 1 = s.tx.len then .emitChecksum else s.tx.phase }
      trace := s.trace ++ [.txByte v]
      out := { StepOut.zero with fwdPut := true, fwdPutData := v, txStatus := 0b01 } }

/-- R149 with R150: a wait step against the captured deadline. An ACK completes the instance, also when the deadline has
passed; otherwise a waiting byte is dropped, and the deadline decides between a timeout and waiting on. -/
def Obligations.WaitDecidesByAckThenDeadline : Prop :=
  ∀ s : State, Enabled s →
    (s.rev.avail = true → s.rev.data = 0x06 →
      exec .txWait s = .next { s with
        rev := { s.rev with avail := false }
        tx := { s.tx with phase := .done }
        trace := s.trace ++ [.txAck]
        out := { StepOut.zero with revTake := true, txStatus := 0b10 } }) ∧
    (¬ (s.rev.avail = true ∧ s.rev.data = 0x06) → s.tx.deadline ≤ s.clock →
      exec .txWait s = .next { s with
        rev := { s.rev with avail := false }
        tx := { s.tx with
          retry := if s.tx.retry = 0xFFFFFFFF then 0xFFFFFFFF else s.tx.retry + 1
          phase := .emitStart }
        trace := s.trace ++ (if s.rev.avail then [.txDiscard s.rev.data] else []) ++ [.txTimeout]
        out := { StepOut.zero with revTake := s.rev.avail, txStatus := 0b01 } }) ∧
    (¬ (s.rev.avail = true ∧ s.rev.data = 0x06) → s.clock < s.tx.deadline →
      exec .txWait s = .next { s with
        rev := { s.rev with avail := false }
        tx := { s.tx with phase := .wait }
        trace := s.trace ++ (if s.rev.avail then [.txDiscard s.rev.data] else [])
        out := { StepOut.zero with revTake := s.rev.avail, txStatus := 0b00 } })

/-- R148 with R150: the first wait step captures the deadline and makes the same check against it. The premise on the tick
counter is R6's: the sum fits (it always does with the unbounded naturals). -/
def Obligations.WaitEntryCapturesTheDeadline : Prop :=
  ∀ s : State, Enabled s → tickFits s.params s.clock = true →
    (s.rev.avail = true → s.rev.data = 0x06 →
      exec .txWaitEntry s = .next { s with
        rev := { s.rev with avail := false }
        tx := { s.tx with deadline := s.clock + s.params.ackWaitPeriod, phase := .done }
        trace := s.trace ++ [.txAck]
        out := { StepOut.zero with revTake := true, txStatus := 0b10 } }) ∧
    (¬ (s.rev.avail = true ∧ s.rev.data = 0x06) → s.params.ackWaitPeriod = 0 →
      exec .txWaitEntry s = .next { s with
        rev := { s.rev with avail := false }
        tx := { s.tx with
          deadline := s.clock
          retry := if s.tx.retry = 0xFFFFFFFF then 0xFFFFFFFF else s.tx.retry + 1
          phase := .emitStart }
        trace := s.trace ++ (if s.rev.avail then [.txDiscard s.rev.data] else []) ++ [.txTimeout]
        out := { StepOut.zero with revTake := s.rev.avail, txStatus := 0b01 } }) ∧
    (¬ (s.rev.avail = true ∧ s.rev.data = 0x06) → 0 < s.params.ackWaitPeriod →
      exec .txWaitEntry s = .next { s with
        rev := { s.rev with avail := false }
        tx := { s.tx with deadline := s.clock + s.params.ackWaitPeriod, phase := .wait }
        trace := s.trace ++ (if s.rev.avail then [.txDiscard s.rev.data] else [])
        out := { StepOut.zero with revTake := s.rev.avail, txStatus := 0b00 } })

/-! ### The host's commands and the environment's moves -/

/-- R141, with what R201 records: TX_START latches the payload and starts an instance; an instance in progress faults first,
then a length above CAP. That exec answers a fault as a state in which the fault register alone differs is the model's reading
(log entry 12); a step stops with it. -/
def Obligations.TxStartLatchesOrFaults : Prop :=
  ∀ (s : State) (len : Byte) (p : List Byte), Enabled s → p.length = len.toNat →
    (s.tx.phase = .idle ∨ s.tx.phase = .done → len.toNat ≤ s.params.cap → len.toNat ≤ s.tx.txbuf.length →
      exec (.txStart len p) s = .next { s with
        tx := { s.tx with
          txbuf := p ++ s.tx.txbuf.drop len.toNat
          len := len
          chk := checksum p
          retry := 0
          idx := 0
          phase := .emitStart }
        trace := s.trace ++ [.txStart len]
        out := StepOut.zero }) ∧
    (s.tx.phase ≠ .idle ∧ s.tx.phase ≠ .done →
      exec (.txStart len p) s = .next { s with fault := some (.startBusy s.tx.phase), out := StepOut.zero }) ∧
    (s.tx.phase = .idle ∨ s.tx.phase = .done → s.params.cap < len.toNat →
      exec (.txStart len p) s = .next { s with fault := some (.startLen len), out := StepOut.zero })

/-- R42 and R201. A run starts without a fault; once one is set no move and no step is possible. A step stops with
F_START_BUSY (code 1) or F_START_LEN (code 2) exactly where the host misuses TX_START, and records what R201 says. So a
faulted state is never the final state of a run, and a run that faults refutes every observation. -/
def Obligations.FaultStopsEveryMove : Prop :=
  (∀ p : Params, Safe (State.powerOn p)) ∧ Safe State.reset ∧
  (∀ (s : State) (f : Fault), s.fault = some f → step s = .fault f ∧ ∀ i : Instr, exec i s = .fault f) ∧
  (∀ p : TxPhase, (Fault.startBusy p).code = 1) ∧ (∀ len : Byte, (Fault.startLen len).code = 2) ∧
  (∀ (s : State) (len : Byte) (p : List Byte) (rest : List Move), Enabled s → p.length = len.toNat →
    s.sched = .command 0x1 (len :: p) :: rest →
    (s.tx.phase ≠ .idle ∧ s.tx.phase ≠ .done → step s = .fault (.startBusy s.tx.phase)) ∧
    (s.tx.phase = .idle ∨ s.tx.phase = .done → s.params.cap < len.toNat → step s = .fault (.startLen len))) ∧
  (∀ (s : State) (f : Fault), Safe s → step s = .fault f →
    ∃ (len : Byte) (p : List Byte) (rest : List Move), s.sched = .command 0x1 (len :: p) :: rest ∧
      ((s.tx.phase ≠ .idle ∧ s.tx.phase ≠ .done ∧ f = .startBusy s.tx.phase) ∨
        ((s.tx.phase = .idle ∨ s.tx.phase = .done) ∧ s.params.cap < len.toNat ∧ f = .startLen len))) ∧
  (∀ (s t : State) (n : Nat), Safe s → run n s = .next t → Safe t) ∧
  ∀ (s : State) (f : Fault) (n k : Nat) (observation : State → Prop), s.fault = some f ∨ run n s = .fault f →
    ¬ Observed (n + k) s observation

/-- R230: RESET. The two payload buffers take some CAP bytes; the statement says nothing of which. The last field is the
model's own count of draws (log entry 4). -/
def Obligations.ResetGivesTheResetValues : Prop :=
  ∀ s : State, Enabled s →
    ∃ (drawPbuf drawTxbuf : List Byte) (n : Nat),
      drawPbuf.length = s.params.cap ∧ drawTxbuf.length = s.params.cap ∧
      exec .reset s = .next { s with
        rx := { phase := .awaitStart, expLen := 0, count := 0, acc := 0, pbuf := drawPbuf }
        rbuf := List.replicate s.params.cap 0x00
        rlen := 0
        tx := { phase := .idle, len := 0, txbuf := drawTxbuf, chk := 0, idx := 0, retry := 0, deadline := 0 }
        out := StepOut.zero
        draws := n }

/-- R53, with the block's reset values of R52: the state before any step, for every choice of the parameters. Of the model's
own fields (`out`, `sched`, `draws`) it says nothing, and of the parameters of State.reset (log entry 3) only that they are
some choice. -/
def Obligations.PowerOnIsTheResetStateInAnEmptyEnvironment : Prop :=
  (∀ p : Params, ∃ (drawPbuf drawTxbuf : List Byte) (fwdData revData : Byte) (out : StepOut) (sched : List Move) (n : Nat),
    drawPbuf.length = p.cap ∧ drawTxbuf.length = p.cap ∧
    State.powerOn p =
      { params := p
        rx := { phase := .awaitStart, expLen := 0, count := 0, acc := 0, pbuf := drawPbuf }
        rbuf := List.replicate p.cap 0x00
        rlen := 0
        tx := { phase := .idle, len := 0, txbuf := drawTxbuf, chk := 0, idx := 0, retry := 0, deadline := 0 }
        fwd := { avail := false, data := fwdData, overrun := false }
        rev := { avail := false, data := revData, overrun := false }
        clock := p.t0
        fault := none
        trace := []
        out := out
        sched := sched
        draws := n }) ∧
  ∃ p : Params, paramsOk p = true ∧ State.reset = State.powerOn p

/-- R182: the clock goes up by exactly 1. The premise is R6's on a finite tick counter. -/
def Obligations.TickAddsOne : Prop :=
  ∀ s : State, Enabled s → tickFits s.params (s.clock + 1) = true →
    exec .tick s = .next { s with clock := s.clock + 1, out := StepOut.zero }

/-- R183, R184, R185, R186: the four channel moves of the environment. -/
def Obligations.EnvironmentPutsAndDropsBytes : Prop :=
  ∀ (s : State) (b : Byte), Enabled s →
    exec (.envPutFwd b) s = .next { s with
      fwd := { avail := true, data := b, overrun := s.fwd.overrun || s.fwd.avail }, out := StepOut.zero } ∧
    exec .envTakeFwd s = .next { s with fwd := { s.fwd with avail := false }, out := StepOut.zero } ∧
    exec (.envPutRev b) s = .next { s with
      rev := { avail := true, data := b, overrun := s.rev.overrun || s.rev.avail }, out := StepOut.zero } ∧
    exec .envTakeRev s = .next { s with rev := { s.rev with avail := false }, out := StepOut.zero }

/-- R202, R60, R6, R91: the refusals are those of the list. First, each is answered where its condition holds: a parameter
outside its range; an index outside its buffer, of each buffer; a tick sum that does not fit; a command code 0x7 to 0xF. Then
the converse, case by case with its move: a step is refused only when its command decodes to no operation, or its parameters
are outside their ranges, or the operation its move decodes to accesses its own buffer outside, or forms its own tick sum that
does not fit. (A TX_START with too few payload bytes decodes to none, so no step executes it.) The model's own readings: that T0 counts as a parameter with room for the
wait period, and that TICK and TX.WAIT_ENTRY are where the sum is checked (log entry 7); that missing or further operand
bytes are refused (log entry 8). -/
def Obligations.RefusalsAreThoseOfTheList : Prop :=
  (∀ (s : State) (i : Instr), s.fault = none → paramsOk s.params = false → exec i s = .refused .parameterRange) ∧
  (∀ s : State, Enabled s → s.rx.pbuf.length ≤ s.rx.count.toNat →
    exec .rxReadPayload s = .refused (.bufferIndex s.rx.count.toNat)) ∧
  (∀ s : State, Enabled s → s.tx.txbuf.length ≤ s.tx.idx.toNat →
    exec .txEmitPayload s = .refused (.bufferIndex s.tx.idx.toNat)) ∧
  (∀ s : State, Enabled s → s.fwd.data = 0x03 →
    s.rx.pbuf.length < s.rx.expLen.toNat ∨ s.rbuf.length < s.rx.expLen.toNat →
    exec .rxAwaitEnd s = .refused (.bufferIndex (s.rx.expLen.toNat - 1))) ∧
  (∀ (s : State) (len : Byte) (p : List Byte), Enabled s → s.tx.phase = .idle ∨ s.tx.phase = .done →
    len.toNat ≤ s.params.cap → len.toNat ≤ p.length → s.tx.txbuf.length < len.toNat →
    exec (.txStart len p) s = .refused (.bufferIndex (len.toNat - 1))) ∧
  (∀ (s : State) (len : Byte) (p : List Byte), Enabled s → s.tx.phase = .idle ∨ s.tx.phase = .done →
    len.toNat ≤ s.params.cap → p.length < len.toNat →
    exec (.txStart len p) s = .refused (.operandCount 0x1 (p.length + 1))) ∧
  (∀ s : State, Enabled s → tickFits s.params s.clock = false → exec .txWaitEntry s = .refused .tickOverflow) ∧
  (∀ s : State, Enabled s → tickFits s.params (s.clock + 1) = false → exec .tick s = .refused .tickOverflow) ∧
  (∀ (s : State) (code : BitVec 4) (ops : List Byte) (rest : List Move), s.fault = none →
    s.sched = .command code ops :: rest →
    (7 ≤ code.toNat → step s = .refused (.reservedCommand code)) ∧
    (code.toNat ≤ 6 → (∀ i : Instr, decodeCommand code ops ≠ .ok i) → step s = .refused (.operandCount code ops.length))) ∧
  ∀ (s : State) (r : Refusal), step s = .refused r →
    s.fault = none ∧ ∃ (m : Move) (rest : List Move), s.sched = m :: rest ∧
      ((∃ (code : BitVec 4) (ops : List Byte), m = .command code ops ∧ (∀ i : Instr, decodeCommand code ops ≠ .ok i) ∧
          ((7 ≤ code.toNat ∧ r = .reservedCommand code) ∨ (code.toNat ≤ 6 ∧ r = .operandCount code ops.length))) ∨
        ∃ i : Instr, decode (encodedMove s m) = .ok i ∧
          ((paramsOk s.params = false ∧ r = .parameterRange) ∨
            (paramsOk s.params = true ∧
              ((i = .rxReadPayload ∧ s.rx.pbuf.length ≤ s.rx.count.toNat ∧ r = .bufferIndex s.rx.count.toNat) ∨
                (i = .txEmitPayload ∧ s.tx.txbuf.length ≤ s.tx.idx.toNat ∧ r = .bufferIndex s.tx.idx.toNat) ∨
                (i = .rxAwaitEnd ∧ s.fwd.data = 0x03 ∧
                  (s.rx.pbuf.length < s.rx.expLen.toNat ∨ s.rbuf.length < s.rx.expLen.toNat) ∧
                  r = .bufferIndex (s.rx.expLen.toNat - 1)) ∨
                (∃ (len : Byte) (p : List Byte), i = .txStart len p ∧ (s.tx.phase = .idle ∨ s.tx.phase = .done) ∧
                  len.toNat ≤ s.params.cap ∧ s.tx.txbuf.length < len.toNat ∧ r = .bufferIndex (len.toNat - 1)) ∨
                (i = .txWaitEntry ∧ tickFits s.params s.clock = false ∧ r = .tickOverflow) ∨
                (i = .tick ∧ tickFits s.params (s.clock + 1) = false ∧ r = .tickOverflow)))))

/-- In a state of the invariant with no fault, whose wait period fits the tick counter with room for one more tick, every
operation the agents are dispatched to, and every well-formed command but a TX_START that R189 forbids the host, answers a next
state without a fault: nothing stops. The forbidden TX_START is FaultStopsEveryMove's. -/
def Obligations.EveryMoveGoesOnUnlessTxStartIsMisused : Prop :=
  ∀ (s : State) (m : Move) (rest : List Move), Inv s → s.fault = none → tickFits s.params (s.clock + 1) = true →
    s.sched = m :: rest →
    (m = .stepRx ∨ m = .stepTx ∨
      ∃ (i : Instr) (code : BitVec 4) (ops : List Byte), i.wf = true ∧ encode i = .command code ops ∧ m = .command code ops ∧
        ∀ (len : Byte) (p : List Byte), i = .txStart len p →
          (s.tx.phase = .idle ∨ s.tx.phase = .done) ∧ len.toNat ≤ s.params.cap) →
    ∃ t, step s = .next t ∧ Safe t

/-! ### The codec -/

/-- R104: the fold of one more byte. -/
def Obligations.ChecksumOfOneMoreByte : Prop :=
  ∀ (p : List Byte) (b : Byte), checksum [] = 0x00 ∧ checksum (p ++ [b]) = checksum p ^^^ b

/-- R103's first sentence: the checksum does not depend on the order of the payload bytes. -/
def Obligations.ChecksumIgnoresOrder : Prop :=
  ∀ p q : List Byte, p.Perm q → checksum p = checksum q

/-- R105: any change of exactly one byte changes the checksum; the same mask on two bytes does not. -/
def Obligations.ChecksumSeesOneChangedByte : Prop :=
  (∀ (p : List Byte) (k : Nat) (b : Byte), (h : k < p.length) → p[k] ≠ b → checksum (p.set k b) ≠ checksum p) ∧
  (∀ (p : List Byte) (j k : Nat) (mask : Byte), (hj : j < p.length) → (hk : k < p.length) → j ≠ k →
    checksum ((p.set j (p[j] ^^^ mask)).set k (p[k] ^^^ mask)) = checksum p)

/-! ### Rules of the whole machine -/

/-- R50: every step keeps the invariant (with the model's strengthening, log entry 10), from every state that has it. -/
def Obligations.EveryStepKeepsTheInvariant : Prop :=
  ∀ s t : State, Inv s → step s = .next t → Inv t

/-- The invariant holds at power-on for all parameters in their ranges, and at State.reset. -/
def Obligations.PowerOnHasTheInvariant : Prop :=
  (∀ p : Params, paramsOk p = true → Inv (State.powerOn p)) ∧ Inv State.reset

/-- The writers of R47, with R141's write of `tx.idx` added (log entry 11): an operation that is no writer of a register leaves it. -/
def Obligations.EachRegisterHasItsWriters : Prop :=
  ∀ (i : Instr) (s t : State), exec i s = .next t →
    (i.isReceiver = false → i ≠ .reset → t.rx = s.rx) ∧
    (i ≠ .rxAwaitEnd → i ≠ .reset → t.rbuf = s.rbuf ∧ t.rlen = s.rlen) ∧
    (i.isStart = false → i ≠ .reset → t.tx.len = s.tx.len ∧ t.tx.txbuf = s.tx.txbuf ∧ t.tx.chk = s.tx.chk) ∧
    (i.isWait = false → i.isStart = false → i ≠ .reset → t.tx.retry = s.tx.retry) ∧
    (i.isSender = false → i.isStart = false → i ≠ .reset → t.tx = s.tx) ∧
    (i ≠ .txWaitEntry → i ≠ .reset → t.tx.deadline = s.tx.deadline) ∧
    (i.isReceiver = false → i.isEmission = false → i ≠ .envTakeFwd → i.isPutFwd = false → t.fwd = s.fwd) ∧
    (i ≠ .rxAwaitEnd → i.isWait = false → i ≠ .envTakeRev → i.isPutRev = false → t.rev = s.rev) ∧
    (i ≠ .tick → t.clock = s.clock) ∧
    (i.isStart = false → t.fault = s.fault) ∧
    t.params = s.params ∧ t.sched = s.sched ∧ (i ≠ .reset → t.draws = s.draws)

/-- R40: only TICK changes the clock, by adding 1; Tick() returns it; its starting value is T0. -/
def Obligations.OnlyTickMovesTheClock : Prop :=
  (∀ s : State, tickIn s = s.clock) ∧
  (∀ (i : Instr) (s t : State), exec i s = .next t → t.clock = if i = .tick then s.clock + 1 else s.clock) ∧
  ∀ p : Params, (State.powerOn p).clock = p.t0

/-- R35, R156: within an instance the retry counter never falls; it changes only in a wait step that finds the deadline
reached, by exactly 1, and the sender then retransmits. -/
def Obligations.RetryCountsTimeouts : Prop :=
  ∀ (i : Instr) (s t : State), exec i s = .next t → i ≠ .reset → i.isStart = false →
    s.tx.retry.toNat ≤ t.tx.retry.toNat ∧
    (t.tx.retry ≠ s.tx.retry →
      i.isWait = true ∧ t.tx.retry.toNat = s.tx.retry.toNat + 1 ∧ t.tx.deadline ≤ s.clock ∧ t.tx.phase = .emitStart)

/-- R124: the receiver puts one ACK for each accept, and no other byte. -/
def Obligations.OneAckPerAcceptAndNoOtherByte : Prop :=
  ∀ (i : Instr) (s t : State), exec i s = .next t →
    (t.out.revPut = true ↔ t.trace = s.trace ++ [.rxAccept s.rx.expLen]) ∧
    (t.out.revPut = true →
      i = .rxAwaitEnd ∧ s.fwd.data = 0x03 ∧ t.out.revPutData = 0x06 ∧ t.rev.avail = true ∧ t.rev.data = 0x06 ∧
        t.rlen = s.rx.expLen)

/-- R122: a receiver step that is no accept is silent: it writes no result, no REV, no fault, and touches the sender, the
clock and the environment not at all. -/
def Obligations.RejectionsAreSilent : Prop :=
  ∀ (i : Instr) (s t : State), exec i s = .next t → i.isReceiver = true → t.out.revPut = false →
    t.rbuf = s.rbuf ∧ t.rlen = s.rlen ∧ t.rev = s.rev ∧ t.fault = s.fault ∧ t.tx = s.tx ∧ t.clock = s.clock

/-- R41: the overrun flags: set exactly by a put into a full slot, cleared by nothing. -/
def Obligations.OverrunIsSetByAPutIntoAFullSlotOnly : Prop :=
  ∀ (i : Instr) (s t : State), exec i s = .next t →
    t.fwd.overrun = (s.fwd.overrun || (s.fwd.avail && (i.isEmission || i.isPutFwd))) ∧
    t.rev.overrun = (s.rev.overrun || (s.rev.avail && (t.out.revPut || i.isPutRev)))

/-- R45: who drives which signal; no step both puts and takes one slot. -/
def Obligations.SignalsAreDrivenByTheirAgent : Prop :=
  ∀ (i : Instr) (s t : State), exec i s = .next t →
    (t.out.fwdPut = true ∨ t.out.revTake = true → i.isSender = true) ∧
    (t.out.fwdTake = true ∨ t.out.revPut = true → i.isReceiver = true) ∧
    ¬ (t.out.fwdPut = true ∧ t.out.fwdTake = true) ∧ ¬ (t.out.revPut = true ∧ t.out.revTake = true)

/-- R87, R123: the statuses, read off the state after the step. The receiver reports Progressed when it took a byte and
Waiting when not, never Completed. The sender reports Completed exactly when it is at DONE after the step, Progressed exactly
when it put a byte or timed out (a timeout is what leads to EMIT_START), and Waiting exactly when it is in IDLE or goes on
waiting; `11` is never produced. -/
def Obligations.StatusTellsWhatTheStepDid : Prop :=
  ∀ (s t : State) (rest : List Move), s.fault = none → step s = .next t →
    (s.sched = .stepRx :: rest →
      t.out.rxStatus = (if s.fwd.avail then 0b01 else 0b00) ∧ t.out.fwdTake = s.fwd.avail ∧ t.out.txStatus = 0b00) ∧
    (s.sched = .stepTx :: rest →
      t.out.rxStatus = 0b00 ∧ t.out.txStatus ≠ 0b11 ∧
      (t.out.txStatus = 0b10 ↔ t.tx.phase = .done) ∧
      (t.out.txStatus = 0b01 ↔ t.out.fwdPut = true ∨ t.tx.phase = .emitStart) ∧
      (t.out.txStatus = 0b00 ↔ t.tx.phase = .idle ∨ t.tx.phase = .wait))

/-- R205: the trace only grows, by at most two events a move, and by none in the silent moves. -/
def Obligations.TraceOnlyGrows : Prop :=
  ∀ (i : Instr) (s t : State), exec i s = .next t →
    ∃ evs : List Event, t.trace = s.trace ++ evs ∧ evs.length ≤ 2 ∧
      (i.isReceiver = false → i.isEmission = false → i.isWait = false → i.isStart = false → evs = []) ∧
      (i = .rxNobyte → evs = [])

/-- R118: AwaitEnd is entered only by the match branch of VERIFY_CHECKSUM. -/
def Obligations.AwaitEndIsEnteredOnlyOnAMatch : Prop :=
  ∀ (i : Instr) (s t : State), exec i s = .next t → t.rx.phase = .awaitEnd → s.rx.phase ≠ .awaitEnd →
    i = .rxVerifyChecksum ∧ s.fwd.data = s.rx.acc

/-- R155: a sender step that is no wait step does not examine REV: with any other REV it does the same and leaves it. -/
def Obligations.OnlyWaitStepsExamineRev : Prop :=
  ∀ (i : Instr) (s t : State) (r : Slot), exec i s = .next t → i.isSender = true → i.isWait = false →
    t.rev = s.rev ∧ exec i { s with rev := r } = .next { t with rev := r }

/-- R191: in a quiescent state a resumption of an agent changes nothing but what it drives (and uses up its move). -/
def Obligations.QuiescentAgentsChangeNothing : Prop :=
  ∀ (s : State) (m : Move) (rest : List Move), Quiescent s → paramsOk s.params = true → s.sched = m :: rest →
    m = .stepRx ∨ m = .stepTx → ∃ out, step s = .next { s with sched := rest, out := out }

/-- R25, R32, R52, R64: bytes no rule reads cannot be told apart: two states of the invariant that agree but for stale
buffer elements and the data of empty slots take the same step to two states that agree so again. -/
def Obligations.StaleBytesAreNeverRead : Prop :=
  ∀ s t : State, Inv s → StaleAgree s t → OutcomeAgree StaleAgree (step s) (step t)

/-! ### Frames -/

/-- R153: from EMIT_START, `4 + tx.len` sender steps put exactly the frame of the latched payload, in order, and leave the
sender at WAIT_ENTRY with everything the next attempt needs unchanged. -/
def Obligations.AnAttemptPutsTheWholeFrame : Prop :=
  ∀ (s : State) (rest : List Move), Enabled s → s.tx.phase = .emitStart → s.tx.len.toNat ≤ s.tx.txbuf.length →
    s.sched = List.replicate (4 + s.tx.len.toNat) .stepTx ++ rest →
    ∃ t, run (4 + s.tx.len.toNat) s = .next t ∧
      t.trace = s.trace ++
        (([0x02, s.tx.len] ++ s.tx.txbuf.take s.tx.len.toNat ++ [s.tx.chk, 0x03]).map Event.txByte) ∧
      t.tx = { s.tx with idx := s.tx.len, phase := .waitEntry } ∧
      t.fwd.avail = true ∧ t.fwd.data = 0x03 ∧
      t.rx = s.rx ∧ t.rbuf = s.rbuf ∧ t.rlen = s.rlen ∧ t.rev = s.rev ∧ t.clock = s.clock ∧ t.fault = none ∧
      t.sched = rest

/-- R125: a receiver in AwaitStart that is fed the frame of a payload, byte by byte, accepts it: the payload and its length
are decoded, one ACK is put, and the stale part of the result buffer, the sender and the clock are left. -/
def Obligations.AFrameFedInIsAccepted : Prop :=
  ∀ (s : State) (p : List Byte) (rest : List Move), Enabled s → Memory.wf s → p.length ≤ s.params.cap →
    s.rx.phase = .awaitStart → s.fwd.avail = false →
    s.sched = Program.feedAll ([0x02, BitVec.ofNat 8 p.length] ++ p ++ [checksum p, 0x03]) ++ rest →
    ∃ t, run (2 * (4 + p.length)) s = .next t ∧
      t.rx.phase = .awaitStart ∧ t.rlen.toNat = p.length ∧ t.rbuf = p ++ s.rbuf.drop p.length ∧
      t.rev = { avail := true, data := 0x06, overrun := s.rev.overrun || s.rev.avail } ∧
      t.fwd.avail = false ∧ t.fwd.overrun = s.fwd.overrun ∧ t.tx = s.tx ∧ t.clock = s.clock ∧ t.fault = none ∧
      t.trace = s.trace ++ ([.rxStart, .rxLength (BitVec.ofNat 8 p.length)] ++ p.map Event.rxPayload ++
        [.rxChecksumOk, .rxAccept (BitVec.ofNat 8 p.length)]) ∧
      t.sched = rest

/-- R117, R122: the same frame with any other checksum byte is rejected at that byte: nothing is decoded and no ACK is put. -/
def Obligations.AWrongChecksumIsRejected : Prop :=
  ∀ (s : State) (p : List Byte) (c : Byte) (rest : List Move), Enabled s → Memory.wf s → p.length ≤ s.params.cap →
    s.rx.phase = .awaitStart → s.fwd.avail = false → c ≠ checksum p →
    s.sched = Program.feedAll ([0x02, BitVec.ofNat 8 p.length] ++ p ++ [c]) ++ rest →
    ∃ t, run (2 * (3 + p.length)) s = .next t ∧
      t.rx.phase = .awaitStart ∧ t.rlen = s.rlen ∧ t.rbuf = s.rbuf ∧ t.rev = s.rev ∧ t.tx = s.tx ∧
      t.trace = s.trace ++ ([.rxStart, .rxLength (BitVec.ofNat 8 p.length)] ++ p.map Event.rxPayload ++
        [.rxChecksumReject (checksum p) c]) ∧
      t.fault = none ∧ t.sched = rest

/-- R125: garbage without a START byte leaves the receiver in AwaitStart, every register of the block as it was. -/
def Obligations.GarbageWithoutStartIsDropped : Prop :=
  ∀ (s : State) (g : List Byte) (rest : List Move), Enabled s → s.rx.phase = .awaitStart → s.fwd.avail = false →
    (∀ b ∈ g, b ≠ 0x02) → s.sched = Program.feedAll g ++ rest →
    ∃ t, run (2 * g.length) s = .next t ∧ t.rx = s.rx ∧ t.rbuf = s.rbuf ∧ t.rlen = s.rlen ∧ t.tx = s.tx ∧
      t.rev = s.rev ∧ t.fwd.avail = false ∧ t.fwd.overrun = s.fwd.overrun ∧
      t.trace = s.trace ++ g.map Event.rxNoise ∧ t.fault = none ∧ t.sched = rest

/-- R192: under the default cycle, the sender first, a transmission into empty slots with the receiver in AwaitStart
completes in `5 + L` cycles, for every payload and every wait period: no retry, no overrun, the payload decoded. -/
def Obligations.TransmissionCompletesUnderCycle : Prop :=
  ∀ (s : State) (p : List Byte) (rest : List Move), Enabled s → Memory.wf s → p.length ≤ s.params.cap →
    s.tx.phase = .idle ∨ s.tx.phase = .done → s.rx.phase = .awaitStart → s.fwd.avail = false → s.rev.avail = false →
    tickFits s.params (s.clock + (5 + p.length)) = true →
    s.sched = Program.txStart p :: Program.repeatOps (5 + p.length) Program.cycle ++ rest →
    ∃ t, run (1 + 3 * (5 + p.length)) s = .next t ∧
      t.tx.phase = .done ∧ t.tx.retry = 0 ∧ t.rx.phase = .awaitStart ∧
      t.rlen.toNat = p.length ∧ t.rbuf = p ++ s.rbuf.drop p.length ∧
      t.fwd.avail = false ∧ t.rev.avail = false ∧ t.fwd.overrun = s.fwd.overrun ∧ t.rev.overrun = s.rev.overrun ∧
      t.clock = s.clock + (5 + p.length) ∧ t.fault = none ∧ t.sched = rest

/-- R192: the same under the cycle with the receiver first. -/
def Obligations.TransmissionCompletesUnderCycleRt : Prop :=
  ∀ (s : State) (p : List Byte) (rest : List Move), Enabled s → Memory.wf s → p.length ≤ s.params.cap →
    s.tx.phase = .idle ∨ s.tx.phase = .done → s.rx.phase = .awaitStart → s.fwd.avail = false → s.rev.avail = false →
    tickFits s.params (s.clock + (5 + p.length)) = true →
    s.sched = Program.txStart p :: Program.repeatOps (5 + p.length) Program.cycleRt ++ rest →
    ∃ t, run (1 + 3 * (5 + p.length)) s = .next t ∧
      t.tx.phase = .done ∧ t.tx.retry = 0 ∧ t.rx.phase = .awaitStart ∧
      t.rlen.toNat = p.length ∧ t.rbuf = p ++ s.rbuf.drop p.length ∧
      t.fwd.avail = false ∧ t.rev.avail = false ∧ t.fwd.overrun = s.fwd.overrun ∧ t.rev.overrun = s.rev.overrun ∧
      t.clock = s.clock + (5 + p.length) ∧ t.fault = none ∧ t.sched = rest

/-- R242: the stale ACK. With an ACK left in REV, a new instance completes at its first wait step although the receiver
never runs: nothing is decoded and every byte of the frame may be lost. -/
def Obligations.AStaleAckCompletesANewInstance : Prop :=
  ∀ (s : State) (p : List Byte) (rest : List Move), Enabled s → Memory.wf s → p.length ≤ s.params.cap →
    s.tx.phase = .idle ∨ s.tx.phase = .done → s.rev.avail = true → s.rev.data = 0x06 →
    tickFits s.params s.clock = true →
    s.sched = Program.txStart p :: List.replicate (5 + p.length) .stepTx ++ rest →
    ∃ t, run (6 + p.length) s = .next t ∧
      t.tx.phase = .done ∧ t.tx.retry = 0 ∧ t.rev.avail = false ∧
      t.rx = s.rx ∧ t.rlen = s.rlen ∧ t.rbuf = s.rbuf ∧ t.fault = none ∧ t.sched = rest

/-! ### Infinite runs -/

/-- R188: under weak fairness no wait lasts for ever. In every fair infinite run, whatever else the environment and the host
do in it, a sender that waits has a later state in which it is done, retransmits, or has been reset. -/
def Obligations.FairnessEndsEveryWait : Prop :=
  ∀ (moves : Nat → Move) (states : Nat → State) (n : Nat), IsInfiniteRun moves states → WeaklyFair moves →
    (states n).tx.phase = .waitEntry ∨ (states n).tx.phase = .wait →
    ∃ k, n < k ∧ ((states k).tx.phase = .done ∨ (states k).tx.phase = .emitStart ∨ (states k).tx.phase = .idle)

/-- R187, R188: a transmission completes under every fair schedule of the two agents and the clock, given the premise of no
overrun (R203, R240): from TX_START into empty slots with the receiver in AwaitStart the sender reaches DONE, and the
payload and its length are then decoded. -/
def Obligations.FairTransmissionCompletes : Prop :=
  ∀ (moves : Nat → Move) (states : Nat → State) (p : List Byte), IsInfiniteRun moves states → WeaklyFair moves →
    Memory.wf (states 0) → p.length ≤ (states 0).params.cap →
    (states 0).tx.phase = .idle ∨ (states 0).tx.phase = .done → (states 0).rx.phase = .awaitStart →
    (states 0).fwd.avail = false → (states 0).rev.avail = false →
    moves 0 = Program.txStart p →
    (∀ n, 1 ≤ n → moves n = .stepRx ∨ moves n = .stepTx ∨ moves n = Program.tick) →
    (∀ n, (states n).fwd.overrun = false) →
    ∃ n, 1 ≤ n ∧ (states n).tx.phase = .done ∧ (states n).rlen.toNat = p.length ∧ (states n).rbuf.take p.length = p
end

