-- ==== Sys2Proof/Laws/State.lean ====
section
/-! SUPPORT. One lemma per field of State per named update, true by rfl, so that no later proof unfolds an update. -/

namespace Sys2Proof.Machine

@[simp] theorem takeFwd_byte (s : State) : (takeFwd s).1 = s.fwd.data := rfl
@[simp] theorem takeRev_byte (s : State) : (takeRev s).1 = s.rev.data := rfl

/-! ### emit -/

@[simp] theorem emit_params (ev : Event) (s : State) : (emit ev s).params = s.params := rfl
@[simp] theorem emit_rx (ev : Event) (s : State) : (emit ev s).rx = s.rx := rfl
@[simp] theorem emit_rbuf (ev : Event) (s : State) : (emit ev s).rbuf = s.rbuf := rfl
@[simp] theorem emit_rlen (ev : Event) (s : State) : (emit ev s).rlen = s.rlen := rfl
@[simp] theorem emit_tx (ev : Event) (s : State) : (emit ev s).tx = s.tx := rfl
@[simp] theorem emit_fwd (ev : Event) (s : State) : (emit ev s).fwd = s.fwd := rfl
@[simp] theorem emit_rev (ev : Event) (s : State) : (emit ev s).rev = s.rev := rfl
@[simp] theorem emit_clock (ev : Event) (s : State) : (emit ev s).clock = s.clock := rfl
@[simp] theorem emit_fault (ev : Event) (s : State) : (emit ev s).fault = s.fault := rfl
@[simp] theorem emit_trace (ev : Event) (s : State) : (emit ev s).trace = s.trace ++ [ev] := rfl
@[simp] theorem emit_out (ev : Event) (s : State) : (emit ev s).out = s.out := rfl
@[simp] theorem emit_sched (ev : Event) (s : State) : (emit ev s).sched = s.sched := rfl
@[simp] theorem emit_draws (ev : Event) (s : State) : (emit ev s).draws = s.draws := rfl

/-! ### takeFwd -/

@[simp] theorem takeFwd_params (s : State) : (takeFwd s).2.params = s.params := rfl
@[simp] theorem takeFwd_rx (s : State) : (takeFwd s).2.rx = s.rx := rfl
@[simp] theorem takeFwd_rbuf (s : State) : (takeFwd s).2.rbuf = s.rbuf := rfl
@[simp] theorem takeFwd_rlen (s : State) : (takeFwd s).2.rlen = s.rlen := rfl
@[simp] theorem takeFwd_tx (s : State) : (takeFwd s).2.tx = s.tx := rfl
@[simp] theorem takeFwd_fwd (s : State) : (takeFwd s).2.fwd = { s.fwd with avail := false } := rfl
@[simp] theorem takeFwd_rev (s : State) : (takeFwd s).2.rev = s.rev := rfl
@[simp] theorem takeFwd_clock (s : State) : (takeFwd s).2.clock = s.clock := rfl
@[simp] theorem takeFwd_fault (s : State) : (takeFwd s).2.fault = s.fault := rfl
@[simp] theorem takeFwd_trace (s : State) : (takeFwd s).2.trace = s.trace := rfl
@[simp] theorem takeFwd_out (s : State) : (takeFwd s).2.out = { s.out with fwdTake := true } := rfl
@[simp] theorem takeFwd_sched (s : State) : (takeFwd s).2.sched = s.sched := rfl
@[simp] theorem takeFwd_draws (s : State) : (takeFwd s).2.draws = s.draws := rfl

/-! ### putFwd -/

@[simp] theorem putFwd_params (b : Byte) (s : State) : (putFwd b s).params = s.params := rfl
@[simp] theorem putFwd_rx (b : Byte) (s : State) : (putFwd b s).rx = s.rx := rfl
@[simp] theorem putFwd_rbuf (b : Byte) (s : State) : (putFwd b s).rbuf = s.rbuf := rfl
@[simp] theorem putFwd_rlen (b : Byte) (s : State) : (putFwd b s).rlen = s.rlen := rfl
@[simp] theorem putFwd_tx (b : Byte) (s : State) : (putFwd b s).tx = s.tx := rfl
@[simp] theorem putFwd_fwd (b : Byte) (s : State) : (putFwd b s).fwd = slotPut s.fwd b := rfl
@[simp] theorem putFwd_rev (b : Byte) (s : State) : (putFwd b s).rev = s.rev := rfl
@[simp] theorem putFwd_clock (b : Byte) (s : State) : (putFwd b s).clock = s.clock := rfl
@[simp] theorem putFwd_fault (b : Byte) (s : State) : (putFwd b s).fault = s.fault := rfl
@[simp] theorem putFwd_trace (b : Byte) (s : State) : (putFwd b s).trace = s.trace := rfl
@[simp] theorem putFwd_out (b : Byte) (s : State) : (putFwd b s).out = { s.out with fwdPut := true, fwdPutData := b } := rfl
@[simp] theorem putFwd_sched (b : Byte) (s : State) : (putFwd b s).sched = s.sched := rfl
@[simp] theorem putFwd_draws (b : Byte) (s : State) : (putFwd b s).draws = s.draws := rfl

/-! ### takeRev -/

@[simp] theorem takeRev_params (s : State) : (takeRev s).2.params = s.params := rfl
@[simp] theorem takeRev_rx (s : State) : (takeRev s).2.rx = s.rx := rfl
@[simp] theorem takeRev_rbuf (s : State) : (takeRev s).2.rbuf = s.rbuf := rfl
@[simp] theorem takeRev_rlen (s : State) : (takeRev s).2.rlen = s.rlen := rfl
@[simp] theorem takeRev_tx (s : State) : (takeRev s).2.tx = s.tx := rfl
@[simp] theorem takeRev_fwd (s : State) : (takeRev s).2.fwd = s.fwd := rfl
@[simp] theorem takeRev_rev (s : State) : (takeRev s).2.rev = { s.rev with avail := false } := rfl
@[simp] theorem takeRev_clock (s : State) : (takeRev s).2.clock = s.clock := rfl
@[simp] theorem takeRev_fault (s : State) : (takeRev s).2.fault = s.fault := rfl
@[simp] theorem takeRev_trace (s : State) : (takeRev s).2.trace = s.trace := rfl
@[simp] theorem takeRev_out (s : State) : (takeRev s).2.out = { s.out with revTake := true } := rfl
@[simp] theorem takeRev_sched (s : State) : (takeRev s).2.sched = s.sched := rfl
@[simp] theorem takeRev_draws (s : State) : (takeRev s).2.draws = s.draws := rfl

/-! ### putRev -/

@[simp] theorem putRev_params (b : Byte) (s : State) : (putRev b s).params = s.params := rfl
@[simp] theorem putRev_rx (b : Byte) (s : State) : (putRev b s).rx = s.rx := rfl
@[simp] theorem putRev_rbuf (b : Byte) (s : State) : (putRev b s).rbuf = s.rbuf := rfl
@[simp] theorem putRev_rlen (b : Byte) (s : State) : (putRev b s).rlen = s.rlen := rfl
@[simp] theorem putRev_tx (b : Byte) (s : State) : (putRev b s).tx = s.tx := rfl
@[simp] theorem putRev_fwd (b : Byte) (s : State) : (putRev b s).fwd = s.fwd := rfl
@[simp] theorem putRev_rev (b : Byte) (s : State) : (putRev b s).rev = slotPut s.rev b := rfl
@[simp] theorem putRev_clock (b : Byte) (s : State) : (putRev b s).clock = s.clock := rfl
@[simp] theorem putRev_fault (b : Byte) (s : State) : (putRev b s).fault = s.fault := rfl
@[simp] theorem putRev_trace (b : Byte) (s : State) : (putRev b s).trace = s.trace := rfl
@[simp] theorem putRev_out (b : Byte) (s : State) : (putRev b s).out = { s.out with revPut := true, revPutData := b } := rfl
@[simp] theorem putRev_sched (b : Byte) (s : State) : (putRev b s).sched = s.sched := rfl
@[simp] theorem putRev_draws (b : Byte) (s : State) : (putRev b s).draws = s.draws := rfl

/-! ### rxReturn -/

@[simp] theorem rxReturn_params (st : Status) (s : State) : (rxReturn st s).params = s.params := rfl
@[simp] theorem rxReturn_rx (st : Status) (s : State) : (rxReturn st s).rx = s.rx := rfl
@[simp] theorem rxReturn_rbuf (st : Status) (s : State) : (rxReturn st s).rbuf = s.rbuf := rfl
@[simp] theorem rxReturn_rlen (st : Status) (s : State) : (rxReturn st s).rlen = s.rlen := rfl
@[simp] theorem rxReturn_tx (st : Status) (s : State) : (rxReturn st s).tx = s.tx := rfl
@[simp] theorem rxReturn_fwd (st : Status) (s : State) : (rxReturn st s).fwd = s.fwd := rfl
@[simp] theorem rxReturn_rev (st : Status) (s : State) : (rxReturn st s).rev = s.rev := rfl
@[simp] theorem rxReturn_clock (st : Status) (s : State) : (rxReturn st s).clock = s.clock := rfl
@[simp] theorem rxReturn_fault (st : Status) (s : State) : (rxReturn st s).fault = s.fault := rfl
@[simp] theorem rxReturn_trace (st : Status) (s : State) : (rxReturn st s).trace = s.trace := rfl
@[simp] theorem rxReturn_out (st : Status) (s : State) : (rxReturn st s).out = { s.out with rxStatus := st.code } := rfl
@[simp] theorem rxReturn_sched (st : Status) (s : State) : (rxReturn st s).sched = s.sched := rfl
@[simp] theorem rxReturn_draws (st : Status) (s : State) : (rxReturn st s).draws = s.draws := rfl

/-! ### txReturn -/

@[simp] theorem txReturn_params (st : Status) (s : State) : (txReturn st s).params = s.params := rfl
@[simp] theorem txReturn_rx (st : Status) (s : State) : (txReturn st s).rx = s.rx := rfl
@[simp] theorem txReturn_rbuf (st : Status) (s : State) : (txReturn st s).rbuf = s.rbuf := rfl
@[simp] theorem txReturn_rlen (st : Status) (s : State) : (txReturn st s).rlen = s.rlen := rfl
@[simp] theorem txReturn_tx (st : Status) (s : State) : (txReturn st s).tx = s.tx := rfl
@[simp] theorem txReturn_fwd (st : Status) (s : State) : (txReturn st s).fwd = s.fwd := rfl
@[simp] theorem txReturn_rev (st : Status) (s : State) : (txReturn st s).rev = s.rev := rfl
@[simp] theorem txReturn_clock (st : Status) (s : State) : (txReturn st s).clock = s.clock := rfl
@[simp] theorem txReturn_fault (st : Status) (s : State) : (txReturn st s).fault = s.fault := rfl
@[simp] theorem txReturn_trace (st : Status) (s : State) : (txReturn st s).trace = s.trace := rfl
@[simp] theorem txReturn_out (st : Status) (s : State) : (txReturn st s).out = { s.out with txStatus := st.code } := rfl
@[simp] theorem txReturn_sched (st : Status) (s : State) : (txReturn st s).sched = s.sched := rfl
@[simp] theorem txReturn_draws (st : Status) (s : State) : (txReturn st s).draws = s.draws := rfl

/-! ### raiseFault -/

@[simp] theorem raiseFault_params (f : Fault) (s : State) : (raiseFault f s).params = s.params := rfl
@[simp] theorem raiseFault_rx (f : Fault) (s : State) : (raiseFault f s).rx = s.rx := rfl
@[simp] theorem raiseFault_rbuf (f : Fault) (s : State) : (raiseFault f s).rbuf = s.rbuf := rfl
@[simp] theorem raiseFault_rlen (f : Fault) (s : State) : (raiseFault f s).rlen = s.rlen := rfl
@[simp] theorem raiseFault_tx (f : Fault) (s : State) : (raiseFault f s).tx = s.tx := rfl
@[simp] theorem raiseFault_fwd (f : Fault) (s : State) : (raiseFault f s).fwd = s.fwd := rfl
@[simp] theorem raiseFault_rev (f : Fault) (s : State) : (raiseFault f s).rev = s.rev := rfl
@[simp] theorem raiseFault_clock (f : Fault) (s : State) : (raiseFault f s).clock = s.clock := rfl
@[simp] theorem raiseFault_fault (f : Fault) (s : State) : (raiseFault f s).fault = some f := rfl
@[simp] theorem raiseFault_trace (f : Fault) (s : State) : (raiseFault f s).trace = s.trace := rfl
@[simp] theorem raiseFault_out (f : Fault) (s : State) : (raiseFault f s).out = s.out := rfl
@[simp] theorem raiseFault_sched (f : Fault) (s : State) : (raiseFault f s).sched = s.sched := rfl
@[simp] theorem raiseFault_draws (f : Fault) (s : State) : (raiseFault f s).draws = s.draws := rfl

/-! ### emitByte -/

@[simp] theorem emitByte_params (b : Byte) (s : State) : (emitByte b s).params = s.params := rfl
@[simp] theorem emitByte_rx (b : Byte) (s : State) : (emitByte b s).rx = s.rx := rfl
@[simp] theorem emitByte_rbuf (b : Byte) (s : State) : (emitByte b s).rbuf = s.rbuf := rfl
@[simp] theorem emitByte_rlen (b : Byte) (s : State) : (emitByte b s).rlen = s.rlen := rfl
@[simp] theorem emitByte_tx (b : Byte) (s : State) : (emitByte b s).tx = s.tx := rfl
@[simp] theorem emitByte_fwd (b : Byte) (s : State) : (emitByte b s).fwd = slotPut s.fwd b := rfl
@[simp] theorem emitByte_rev (b : Byte) (s : State) : (emitByte b s).rev = s.rev := rfl
@[simp] theorem emitByte_clock (b : Byte) (s : State) : (emitByte b s).clock = s.clock := rfl
@[simp] theorem emitByte_fault (b : Byte) (s : State) : (emitByte b s).fault = s.fault := rfl
@[simp] theorem emitByte_trace (b : Byte) (s : State) : (emitByte b s).trace = s.trace ++ [.txByte b] := rfl
@[simp] theorem emitByte_out (b : Byte) (s : State) : (emitByte b s).out = { s.out with fwdPut := true, fwdPutData := b, txStatus := Status.progressed.code } := rfl
@[simp] theorem emitByte_sched (b : Byte) (s : State) : (emitByte b s).sched = s.sched := rfl
@[simp] theorem emitByte_draws (b : Byte) (s : State) : (emitByte b s).draws = s.draws := rfl

/-! ### resetBlock -/

@[simp] theorem resetBlock_params (dp dt : Buffer) (s : State) : (resetBlock dp dt s).params = s.params := rfl
@[simp] theorem resetBlock_rx (dp dt : Buffer) (s : State) : (resetBlock dp dt s).rx = { phase := .awaitStart, expLen := 0, count := 0, acc := 0, pbuf := dp } := rfl
@[simp] theorem resetBlock_rbuf (dp dt : Buffer) (s : State) : (resetBlock dp dt s).rbuf = List.replicate s.params.cap 0x00 := rfl
@[simp] theorem resetBlock_rlen (dp dt : Buffer) (s : State) : (resetBlock dp dt s).rlen = 0 := rfl
@[simp] theorem resetBlock_tx (dp dt : Buffer) (s : State) : (resetBlock dp dt s).tx = { phase := .idle, len := 0, txbuf := dt, chk := 0, idx := 0, retry := 0, deadline := 0 } := rfl
@[simp] theorem resetBlock_fwd (dp dt : Buffer) (s : State) : (resetBlock dp dt s).fwd = s.fwd := rfl
@[simp] theorem resetBlock_rev (dp dt : Buffer) (s : State) : (resetBlock dp dt s).rev = s.rev := rfl
@[simp] theorem resetBlock_clock (dp dt : Buffer) (s : State) : (resetBlock dp dt s).clock = s.clock := rfl
@[simp] theorem resetBlock_fault (dp dt : Buffer) (s : State) : (resetBlock dp dt s).fault = s.fault := rfl
@[simp] theorem resetBlock_trace (dp dt : Buffer) (s : State) : (resetBlock dp dt s).trace = s.trace := rfl
@[simp] theorem resetBlock_out (dp dt : Buffer) (s : State) : (resetBlock dp dt s).out = s.out := rfl
@[simp] theorem resetBlock_sched (dp dt : Buffer) (s : State) : (resetBlock dp dt s).sched = s.sched := rfl
@[simp] theorem resetBlock_draws (dp dt : Buffer) (s : State) : (resetBlock dp dt s).draws = s.draws := rfl

end Sys2Proof.Machine
end

