-- ==== Sys2Proof/Laws/Ops.lean ====
section
/-! SUPPORT. One lemma per shared operation that says everything it can do, and the lemmas that every buffer operation
keeps the canonical form (spec/20_memory.md R60, log entry 6). -/

namespace Sys2Proof.Machine

/-! ### When a move is possible -/

theorem move_of_enabled {s : State} (h : Enabled s) (body : State → Result) :
    move s body = body { s with out := StepOut.zero } := by
  obtain ⟨hf, hp⟩ := h
  simp [move, hf, hp]

theorem move_of_fault {s : State} {f : Fault} (h : s.fault = some f) (body : State → Result) :
    move s body = .fault f := by
  simp [move, h]

/-- A move that answers a next state was possible, and its body answered that state. -/
theorem move_next {s t : State} {body : State → Result} (h : move s body = .next t) :
    Enabled s ∧ body { s with out := StepOut.zero } = .next t := by
  unfold move at h
  split at h
  · cases h
  · next hf =>
    split at h
    · next hp => exact ⟨⟨hf, hp⟩, h⟩
    · cases h

/-! ### Stopping on a fault (R201) -/

theorem stopOnFault_next {r : Result} {t : State} : stopOnFault r = .next t ↔ r = .next t ∧ t.fault = none := by
  cases r with
  | next s =>
    simp only [stopOnFault]
    cases h : s.fault with
    | none => exact ⟨fun e => ⟨e, by cases e; exact h⟩, And.left⟩
    | some f =>
      constructor
      · intro e
        cases e
      · rintro ⟨e, ht⟩
        cases e
        simp [h] at ht
  | fault f => simp [stopOnFault]
  | refused q => simp [stopOnFault]

theorem stopOnFault_fault {r : Result} {f : Fault} :
    stopOnFault r = .fault f ↔ r = .fault f ∨ ∃ t, r = .next t ∧ t.fault = some f := by
  cases r with
  | next s => cases h : s.fault <;> simp [stopOnFault, h]
  | fault g => simp [stopOnFault]
  | refused q => simp [stopOnFault]

theorem stopOnFault_refused {r : Result} {q : Refusal} : stopOnFault r = .refused q ↔ r = .refused q := by
  cases r with
  | next s => cases h : s.fault <;> simp [stopOnFault, h]
  | fault g => simp [stopOnFault]
  | refused p => simp [stopOnFault]

/-! ### Buffers -/

theorem readBuf_eq_some {buf : Buffer} {i : Nat} {v : Byte} :
    readBuf buf i = some v ↔ ∃ h : i < buf.length, buf[i] = v := by
  simp [readBuf, List.getElem?_eq_some_iff]

theorem writeBuf_eq_some {buf buf' : Buffer} {i : Nat} {v : Byte} :
    writeBuf buf i v = some buf' ↔ i < buf.length ∧ buf.set i v = buf' := by
  unfold writeBuf
  split <;> simp_all

theorem copyPrefix_eq_some {n : Nat} {src dst buf : Buffer} :
    copyPrefix n src dst = some buf ↔
      (n ≤ src.length ∧ n ≤ dst.length) ∧ src.take n ++ dst.drop n = buf := by
  unfold copyPrefix
  split <;> simp_all

theorem writeBuf_length {buf buf' : Buffer} {i : Nat} {v : Byte} (h : writeBuf buf i v = some buf') :
    buf'.length = buf.length := by
  obtain ⟨-, rfl⟩ := writeBuf_eq_some.mp h
  simp

theorem copyPrefix_length {n : Nat} {src dst buf : Buffer} (h : copyPrefix n src dst = some buf) :
    buf.length = dst.length := by
  obtain ⟨⟨h1, h2⟩, rfl⟩ := copyPrefix_eq_some.mp h
  simp
  omega

theorem copyPrefix_take {n : Nat} {src dst buf : Buffer} (h : copyPrefix n src dst = some buf) :
    buf.take n = src.take n := by
  obtain ⟨⟨h1, -⟩, rfl⟩ := copyPrefix_eq_some.mp h
  simp [h1]

theorem copyPrefix_drop {n : Nat} {src dst buf : Buffer} (h : copyPrefix n src dst = some buf) :
    buf.drop n = dst.drop n := by
  obtain ⟨⟨h1, -⟩, rfl⟩ := copyPrefix_eq_some.mp h
  simp [h1]

/-- A write appends to the prefix below its index. -/
theorem writeBuf_take {buf buf' : Buffer} {i : Nat} {v : Byte} (h : writeBuf buf i v = some buf') :
    buf'.take (i + 1) = buf.take i ++ [v] := by
  obtain ⟨hi, rfl⟩ := writeBuf_eq_some.mp h
  rw [List.take_add_one]
  simp [hi, List.take_set, List.set_eq_of_length_le]

@[simp] theorem drawBytes_length (start n : Nat) : (drawBytes start n).length = n := by simp [drawBytes]

theorem resetBlock_memory_wf {dp dt : Buffer} {s : State} (hp : dp.length = s.params.cap) (ht : dt.length = s.params.cap) :
    Memory.wf (resetBlock dp dt s) := by
  simp [Memory.wf, hp, ht]

theorem powerOn_memory_wf (p : Params) : Memory.wf (State.powerOn p) := by
  simp [Memory.wf, State.powerOn]

/-! ### The checksum -/

@[simp] theorem checksum_nil : checksum [] = 0 := rfl

theorem checksum_snoc (p : List Byte) (b : Byte) : checksum (p ++ [b]) = checksum p ^^^ b := by
  simp [checksum]

/-! ### Slots -/

@[simp] theorem slotAvail_eq (sl : Slot) : slotAvail sl = sl.avail := rfl
@[simp] theorem slotPut_avail (sl : Slot) (b : Byte) : (slotPut sl b).avail = true := rfl
@[simp] theorem slotPut_data (sl : Slot) (b : Byte) : (slotPut sl b).data = b := rfl
@[simp] theorem slotPut_overrun (sl : Slot) (b : Byte) : (slotPut sl b).overrun = (sl.overrun || sl.avail) := rfl
@[simp] theorem slotDrop_avail (sl : Slot) : (slotDrop sl).avail = false := by
  cases h : sl.avail <;> simp [slotDrop, slotTake, h]
@[simp] theorem slotDrop_data (sl : Slot) : (slotDrop sl).data = sl.data := by
  cases h : sl.avail <;> simp [slotDrop, slotTake, h]
@[simp] theorem slotDrop_overrun (sl : Slot) : (slotDrop sl).overrun = sl.overrun := by
  cases h : sl.avail <;> simp [slotDrop, slotTake, h]

/-! ### The shared parts of meanings -/

theorem accept_eq_some {s t : State} (h : accept s = some t) :
    ∃ rbuf, copyPrefix s.rx.expLen.toNat s.rx.pbuf s.rbuf = some rbuf ∧
      t = putRev wireAck { s with rbuf := rbuf, rlen := s.rx.expLen } := by
  unfold accept at h
  split at h
  · cases h
  · next rbuf hc => exact ⟨rbuf, hc, by simpa using h.symm⟩

/-- What the poll of REV does (R150): nothing, take the ACK, or take and drop another byte. -/
theorem pollRev_cases (s : State) :
    (s.rev.avail = false ∧ pollRev s = (false, s)) ∨
    (s.rev.avail = true ∧ s.rev.data = wireAck ∧ pollRev s = (true, emit .txAck (takeRev s).2)) ∨
    (s.rev.avail = true ∧ s.rev.data ≠ wireAck ∧
      pollRev s = (false, emit (.txDiscard s.rev.data) (takeRev s).2)) := by
  cases ha : s.rev.avail
  · simp [pollRev, ha]
  · by_cases hd : s.rev.data = wireAck <;> simp [pollRev, ha, hd, takeRev, slotTake]

/-- What a wait check does (R150), over the state its poll leaves. -/
theorem waitCheck_cases (d : Nat) (s : State) :
    ((pollRev s).1 = true ∧ waitCheck d s =
      txReturn .completed { (pollRev s).2 with tx := { (pollRev s).2.tx with phase := .done } }) ∨
    ((pollRev s).1 = false ∧ d ≤ (pollRev s).2.clock ∧ waitCheck d s =
      txReturn .progressed (emit .txTimeout { (pollRev s).2 with
        tx := { (pollRev s).2.tx with retry := satInc (pollRev s).2.tx.retry, phase := .emitStart } })) ∨
    ((pollRev s).1 = false ∧ (pollRev s).2.clock < d ∧ waitCheck d s =
      txReturn .waiting { (pollRev s).2 with tx := { (pollRev s).2.tx with phase := .wait } }) := by
  unfold waitCheck
  cases hp : (pollRev s).1
  · by_cases hd : d ≤ (pollRev s).2.clock
    · simp [hp, hd]
    · simp [hp, hd, Nat.lt_of_not_le hd]
  · simp [hp]

/-! ### Fetch -/

theorem fetch_ok {s : State} {m : Move} {i : Instr} : fetch s m = .ok i ↔ decode (encodedMove s m) = .ok i := by
  unfold fetch
  split <;> simp_all

/-- The rows of R89 exclude each other: no selector matches two of them. -/
theorem selectorRows_disjoint :
    selectorRows.Pairwise fun a b => ∀ w : BitVec 6, ¬ (rowMatches w a = true ∧ rowMatches w b = true) := by
  decide

end Sys2Proof.Machine
end

