-- ==== Sys2Proof/Laws/Exec.lean ====
section
/-! SUPPORT. One inversion lemma per operation: if it answers a next state, then it was possible and the next state is one
of these. Invariants are derived from these lemmas, so that no proof unfolds a meaning again. -/

namespace Sys2Proof.Machine

variable {s t : State}

/-! ### The receiver -/

theorem exec_rxNobyte_next (h : exec .rxNobyte s = .next t) :
    t = { s with out := { StepOut.zero with rxStatus := Status.waiting.code } } := by
  simp only [exec, execRxNobyte] at h
  simpa [rxReturn, eq_comm] using (move_next h).2

theorem exec_rxAwaitStart_next (h : exec .rxAwaitStart s = .next t) :
    (s.fwd.data = wireStart ∧ t = { s with
      fwd := { s.fwd with avail := false }
      rx := { s.rx with count := 0, acc := 0, phase := .readLength }
      trace := s.trace ++ [.rxStart]
      out := { StepOut.zero with fwdTake := true, rxStatus := Status.progressed.code } }) ∨
    (s.fwd.data ≠ wireStart ∧ t = { s with
      fwd := { s.fwd with avail := false }
      trace := s.trace ++ [.rxNoise s.fwd.data]
      out := { StepOut.zero with fwdTake := true, rxStatus := Status.progressed.code } }) := by
  simp only [exec, execRxAwaitStart] at h
  have h := (move_next h).2
  by_cases hd : s.fwd.data = wireStart
  · exact .inl ⟨hd, by simpa [takeFwd, slotTake, hd, emit, rxReturn, eq_comm] using h⟩
  · exact .inr ⟨hd, by simpa [takeFwd, slotTake, hd, emit, rxReturn, eq_comm] using h⟩

theorem exec_rxReadLength_next (h : exec .rxReadLength s = .next t) :
    t = { s with
      fwd := { s.fwd with avail := false }
      rx := { s.rx with expLen := s.fwd.data, phase := (lengthBranch s.params.cap s.fwd.data).1 }
      trace := s.trace ++ [(lengthBranch s.params.cap s.fwd.data).2]
      out := { StepOut.zero with fwdTake := true, rxStatus := Status.progressed.code } } := by
  simp only [exec, execRxReadLength] at h
  simpa [takeFwd, slotTake, emit, rxReturn, eq_comm] using (move_next h).2

theorem exec_rxReadPayload_next (h : exec .rxReadPayload s = .next t) :
    s.rx.count.toNat < s.rx.pbuf.length ∧ t = { s with
      fwd := { s.fwd with avail := false }
      rx := { s.rx with
        pbuf := s.rx.pbuf.set s.rx.count.toNat s.fwd.data
        acc := s.rx.acc ^^^ s.fwd.data
        count := s.rx.count + 1
        phase := if s.rx.count + 1 = s.rx.expLen then .verifyChecksum else s.rx.phase }
      trace := s.trace ++ [.rxPayload s.fwd.data]
      out := { StepOut.zero with fwdTake := true, rxStatus := Status.progressed.code } } := by
  simp only [exec, execRxReadPayload] at h
  have h := (move_next h).2
  by_cases hi : s.rx.count.toNat < s.rx.pbuf.length
  · refine ⟨hi, ?_⟩
    simp only [takeFwd, slotTake, writeBuf, hi, emit, rxReturn, if_true] at h
    cases h
    rfl
  · simp [writeBuf, hi] at h

theorem exec_rxVerifyChecksum_next (h : exec .rxVerifyChecksum s = .next t) :
    (s.fwd.data = s.rx.acc ∧ t = { s with
      fwd := { s.fwd with avail := false }
      rx := { s.rx with phase := .awaitEnd }
      trace := s.trace ++ [.rxChecksumOk]
      out := { StepOut.zero with fwdTake := true, rxStatus := Status.progressed.code } }) ∨
    (s.fwd.data ≠ s.rx.acc ∧ t = { s with
      fwd := { s.fwd with avail := false }
      rx := { s.rx with phase := .awaitStart }
      trace := s.trace ++ [.rxChecksumReject s.rx.acc s.fwd.data]
      out := { StepOut.zero with fwdTake := true, rxStatus := Status.progressed.code } }) := by
  simp only [exec, execRxVerifyChecksum] at h
  have h := (move_next h).2
  by_cases hd : s.fwd.data = s.rx.acc
  · exact .inl ⟨hd, by simpa [takeFwd, slotTake, hd, emit, rxReturn, eq_comm] using h⟩
  · exact .inr ⟨hd, by simpa [takeFwd, slotTake, hd, emit, rxReturn, eq_comm] using h⟩

theorem exec_rxAwaitEnd_next (h : exec .rxAwaitEnd s = .next t) :
    (s.fwd.data = wireEnd ∧ s.rx.expLen.toNat ≤ s.rx.pbuf.length ∧ s.rx.expLen.toNat ≤ s.rbuf.length ∧ t = { s with
      fwd := { s.fwd with avail := false }
      rbuf := s.rx.pbuf.take s.rx.expLen.toNat ++ s.rbuf.drop s.rx.expLen.toNat
      rlen := s.rx.expLen
      rev := slotPut s.rev wireAck
      rx := { s.rx with phase := .awaitStart }
      trace := s.trace ++ [.rxAccept s.rx.expLen]
      out := { StepOut.zero with
        fwdTake := true, revPut := true, revPutData := wireAck, rxStatus := Status.progressed.code } }) ∨
    (s.fwd.data ≠ wireEnd ∧ t = { s with
      fwd := { s.fwd with avail := false }
      rx := { s.rx with phase := .awaitStart }
      trace := s.trace ++ [.rxEndReject s.fwd.data]
      out := { StepOut.zero with fwdTake := true, rxStatus := Status.progressed.code } }) := by
  simp only [exec, execRxAwaitEnd] at h
  have h := (move_next h).2
  by_cases hd : s.fwd.data = wireEnd
  · by_cases hl : s.rx.expLen.toNat ≤ s.rx.pbuf.length ∧ s.rx.expLen.toNat ≤ s.rbuf.length
    · exact .inl ⟨hd, hl.1, hl.2, by
        simpa [takeFwd, slotTake, hd, accept, copyPrefix, hl, putRev, emit, rxReturn, eq_comm] using h⟩
    · simp [hd, accept, copyPrefix, hl] at h
  · exact .inr ⟨hd, by simpa [takeFwd, slotTake, hd, emit, rxReturn, eq_comm] using h⟩

/-! ### The sender -/

theorem exec_txIdle_next (h : exec .txIdle s = .next t) :
    t = { s with out := { StepOut.zero with txStatus := Status.waiting.code } } := by
  simp only [exec, execTxIdle] at h
  simpa [txReturn, eq_comm] using (move_next h).2

theorem exec_txDone_next (h : exec .txDone s = .next t) :
    t = { s with out := { StepOut.zero with txStatus := Status.completed.code } } := by
  simp only [exec, execTxDone] at h
  simpa [txReturn, eq_comm] using (move_next h).2

/-- What an emission of the byte `b` that leaves the sender's registers at `tx` makes of a state. -/
def emitted (b : Byte) (tx : Sender) (s : State) : State :=
  { s with
    fwd := slotPut s.fwd b
    tx := tx
    trace := s.trace ++ [.txByte b]
    out := { StepOut.zero with fwdPut := true, fwdPutData := b, txStatus := Status.progressed.code } }

theorem exec_txEmitStart_next (h : exec .txEmitStart s = .next t) :
    t = emitted wireStart { s.tx with idx := 0, phase := .emitLength } s := by
  simp only [exec, execTxEmitStart] at h
  simpa [emitByte, putFwd, emit, txReturn, emitted, eq_comm] using (move_next h).2

theorem exec_txEmitLength_next (h : exec .txEmitLength s = .next t) :
    t = emitted s.tx.len { s.tx with phase := if 0 < s.tx.len.toNat then .emitPayload else .emitChecksum } s := by
  simp only [exec, execTxEmitLength] at h
  simpa [emitByte, putFwd, emit, txReturn, emitted, eq_comm] using (move_next h).2

theorem exec_txEmitPayload_next (h : exec .txEmitPayload s = .next t) :
    ∃ hi : s.tx.idx.toNat < s.tx.txbuf.length,
      t = emitted s.tx.txbuf[s.tx.idx.toNat] { s.tx with
        idx := s.tx.idx + 1
        phase := if s.tx.idx + 1 = s.tx.len then .emitChecksum else s.tx.phase } s := by
  simp only [exec, execTxEmitPayload] at h
  have h := (move_next h).2
  by_cases hi : s.tx.idx.toNat < s.tx.txbuf.length
  · refine ⟨hi, ?_⟩
    simp only [readBuf, List.getElem?_eq_getElem hi] at h
    cases h
    rfl
  · simp [readBuf, hi] at h

theorem exec_txEmitChecksum_next (h : exec .txEmitChecksum s = .next t) :
    t = emitted s.tx.chk { s.tx with phase := .emitEnd } s := by
  simp only [exec, execTxEmitChecksum] at h
  simpa [emitByte, putFwd, emit, txReturn, emitted, eq_comm] using (move_next h).2

theorem exec_txEmitEnd_next (h : exec .txEmitEnd s = .next t) :
    t = emitted wireEnd { s.tx with phase := .waitEntry } s := by
  simp only [exec, execTxEmitEnd] at h
  simpa [emitByte, putFwd, emit, txReturn, emitted, eq_comm] using (move_next h).2

/-- What a wait check that ends with the sender's registers at `tx`, the events `evs` and the status `st` makes of a
state. -/
def waited (tx : Sender) (evs : List Event) (st : Status) (s : State) : State :=
  { s with
    rev := { s.rev with avail := false }
    tx := tx
    trace := s.trace ++ evs
    out := { s.out with revTake := s.out.revTake || s.rev.avail, txStatus := st.code } }

/-- The event of a byte that is taken from REV and dropped. -/
def discarded (s : State) : List Event := if s.rev.avail then [.txDiscard s.rev.data] else []

theorem slot_with_avail_false {sl : Slot} (h : sl.avail = false) : { sl with avail := false } = sl := by
  cases sl
  simp_all

/-- The three ends of a wait check (R150), in full. -/
theorem waitCheck_eq (d : Nat) (s : State) :
    (s.rev.avail = true ∧ s.rev.data = wireAck ∧
      waitCheck d s = waited { s.tx with phase := .done } [.txAck] .completed s) ∨
    (¬ (s.rev.avail = true ∧ s.rev.data = wireAck) ∧ d ≤ s.clock ∧
      waitCheck d s = waited { s.tx with retry := satInc s.tx.retry, phase := .emitStart }
        (discarded s ++ [.txTimeout]) .progressed s) ∨
    (¬ (s.rev.avail = true ∧ s.rev.data = wireAck) ∧ s.clock < d ∧
      waitCheck d s = waited { s.tx with phase := .wait } (discarded s) .waiting s) := by
  rcases pollRev_cases s with ⟨ha, hp⟩ | ⟨ha, hk, hp⟩ | ⟨ha, hk, hp⟩ <;>
    rcases waitCheck_cases d s with ⟨hw, e⟩ | ⟨hw, hd, e⟩ | ⟨hw, hd, e⟩ <;> simp [hp] at hw <;>
    (try simp [hp] at hd) <;> simp [hp] at e
  · exact .inr (.inl ⟨by simp [ha], hd, by
      simp [e, waited, discarded, ha, emit, txReturn, slot_with_avail_false ha]⟩)
  · exact .inr (.inr ⟨by simp [ha], hd, by
      simp [e, waited, discarded, ha, txReturn, slot_with_avail_false ha]⟩)
  · exact .inl ⟨ha, hk, by simp [e, waited, ha, emit, txReturn, takeRev, slotTake]⟩
  · exact .inr (.inl ⟨by simp [hk], hd, by
      simp [e, waited, discarded, ha, emit, txReturn, takeRev, slotTake]⟩)
  · exact .inr (.inr ⟨by simp [hk], hd, by
      simp [e, waited, discarded, ha, emit, txReturn, takeRev, slotTake]⟩)

theorem exec_txWaitEntry_next (h : exec .txWaitEntry s = .next t) :
    tickFits s.params s.clock = true ∧
      t = waitCheck (s.clock + s.params.ackWaitPeriod)
        { s with tx := { s.tx with deadline := s.clock + s.params.ackWaitPeriod }, out := StepOut.zero } := by
  simp only [exec, execTxWaitEntry] at h
  have h := (move_next h).2
  by_cases ht : tickFits s.params s.clock = true
  · exact ⟨ht, by simpa [ht, eq_comm] using h⟩
  · simp [ht] at h

theorem exec_txWait_next (h : exec .txWait s = .next t) :
    t = waitCheck s.tx.deadline { s with out := StepOut.zero } := by
  simp only [exec, execTxWait] at h
  simpa [eq_comm] using (move_next h).2

/-! ### The host and the environment -/

theorem exec_reset_next (h : exec .reset s = .next t) :
    t = resetBlock (drawBytes s.draws s.params.cap) (drawBytes (s.draws + s.params.cap) s.params.cap)
      { s with draws := s.draws + 2 * s.params.cap, out := StepOut.zero } := by
  simp only [exec, execReset] at h
  simpa [eq_comm] using (move_next h).2

theorem exec_txStart_next {len : Byte} {p : List Byte} (h : exec (.txStart len p) s = .next t) :
    (mayStart s.tx.phase = false ∧ t = { s with fault := some (.startBusy s.tx.phase), out := StepOut.zero }) ∨
    (mayStart s.tx.phase = true ∧ s.params.cap < len.toNat ∧
      t = { s with fault := some (.startLen len), out := StepOut.zero }) ∨
    (mayStart s.tx.phase = true ∧ len.toNat ≤ s.params.cap ∧ len.toNat ≤ p.length ∧ len.toNat ≤ s.tx.txbuf.length ∧
      t = { s with
        tx := { s.tx with
          txbuf := p.take len.toNat ++ s.tx.txbuf.drop len.toNat
          len := len
          chk := checksum (p.take len.toNat)
          retry := 0
          idx := 0
          phase := .emitStart }
        trace := s.trace ++ [.txStart len]
        out := StepOut.zero }) := by
  simp only [exec, execTxStart] at h
  have h := (move_next h).2
  cases hm : mayStart s.tx.phase
  · exact .inl ⟨rfl, by simpa [hm, raiseFault, eq_comm] using h⟩
  · by_cases hc : s.params.cap < len.toNat
    · exact .inr (.inl ⟨rfl, hc, by simpa [hm, hc, raiseFault, eq_comm] using h⟩)
    · by_cases hp : p.length < len.toNat
      · simp [hm, hc, hp] at h
      · by_cases hb : len.toNat ≤ s.tx.txbuf.length
        · exact .inr (.inr ⟨rfl, by omega, by omega, hb, by
            simpa [hm, hc, hp, copyPrefix, hb, Nat.le_of_not_lt hp, emit, eq_comm] using h⟩)
        · simp [hm, hc, hp, copyPrefix, hb] at h

theorem exec_tick_next (h : exec .tick s = .next t) :
    tickFits s.params (s.clock + 1) = true ∧ t = { s with clock := s.clock + 1, out := StepOut.zero } := by
  simp only [exec, execTick] at h
  have h := (move_next h).2
  by_cases ht : tickFits s.params (s.clock + 1) = true
  · exact ⟨ht, by simpa [ht, eq_comm] using h⟩
  · simp [ht] at h

theorem exec_envPutFwd_next {b : Byte} (h : exec (.envPutFwd b) s = .next t) :
    t = { s with fwd := slotPut s.fwd b, out := StepOut.zero } := by
  simp only [exec, execEnvPutFwd] at h
  simpa [eq_comm] using (move_next h).2

theorem exec_envTakeFwd_next (h : exec .envTakeFwd s = .next t) :
    t = { s with fwd := slotDrop s.fwd, out := StepOut.zero } := by
  simp only [exec, execEnvTakeFwd] at h
  simpa [eq_comm] using (move_next h).2

theorem exec_envPutRev_next {b : Byte} (h : exec (.envPutRev b) s = .next t) :
    t = { s with rev := slotPut s.rev b, out := StepOut.zero } := by
  simp only [exec, execEnvPutRev] at h
  simpa [eq_comm] using (move_next h).2

theorem exec_envTakeRev_next (h : exec .envTakeRev s = .next t) :
    t = { s with rev := slotDrop s.rev, out := StepOut.zero } := by
  simp only [exec, execEnvTakeRev] at h
  simpa [eq_comm] using (move_next h).2

/-! ### Any operation, and a step -/

/-- Every operation is a move: it is possible under the conditions of `move` alone. -/
theorem exec_eq_move (i : Instr) (s : State) : ∃ body, exec i s = move s body := by
  cases i <;>
    simp only [exec, execRxNobyte, execRxAwaitStart, execRxReadLength, execRxReadPayload, execRxVerifyChecksum,
      execRxAwaitEnd, execTxIdle, execTxEmitStart, execTxEmitLength, execTxEmitPayload, execTxEmitChecksum,
      execTxEmitEnd, execTxWaitEntry, execTxWait, execTxDone, execReset, execTxStart, execTick, execEnvPutFwd,
      execEnvTakeFwd, execEnvPutRev, execEnvTakeRev] <;>
    exact ⟨_, rfl⟩

/-- An operation that answers a next state was possible (R181). -/
theorem exec_next_enabled {i : Instr} (h : exec i s = .next t) : Enabled s := by
  obtain ⟨body, e⟩ := exec_eq_move i s
  exact (move_next (e ▸ h)).1

/-- The fetch does not read the schedule. -/
@[simp] theorem fetch_sched (s : State) (ms : List Move) (m : Move) : fetch { s with sched := ms } m = fetch s m := by
  cases m <;> rfl

/-- A move that answers a next state executed the operation it decodes to, and raised no fault (R201). -/
theorem perform_next {m : Move} (h : perform m s = .next t) :
    ∃ i, decode (encodedMove s m) = .ok i ∧ exec i s = .next t ∧ t.fault = none := by
  unfold perform at h
  split at h
  · exact ⟨_, fetch_ok.mp ‹_›, stopOnFault_next.mp h⟩
  · cases h

/-- A move that answers a next state was possible (R181). -/
theorem perform_next_enabled {m : Move} (h : perform m s = .next t) : Enabled s := by
  obtain ⟨i, -, hi, -⟩ := perform_next h
  exact exec_next_enabled hi

/-- With a move to come and no fault, a step performs that move. -/
theorem step_cons {m : Move} {rest : List Move} (hf : s.fault = none) (hs : s.sched = m :: rest) :
    step s = perform m { s with sched := rest } := by
  simp [step, hf, hs]

/-- A step that answers a next state either had no move to come, or executed the operation its next move decodes to
and raised no fault. -/
theorem step_next (h : step s = .next t) :
    (s.fault = none ∧ s.sched = [] ∧ t = s) ∨
    ∃ m rest i, s.fault = none ∧ s.sched = m :: rest ∧ decode (encodedMove s m) = .ok i ∧
      exec i { s with sched := rest } = .next t ∧ t.fault = none := by
  have hf : s.fault = none := by
    cases hf : s.fault with
    | none => rfl
    | some f => simp [step, hf] at h
  cases hs : s.sched with
  | nil => exact .inl ⟨hf, rfl, by simpa [step, hf, hs, eq_comm] using h⟩
  | cons m rest =>
    rw [step_cons hf hs] at h
    obtain ⟨i, hd, hi⟩ := perform_next h
    exact .inr ⟨m, rest, i, hf, rfl, by cases m <;> exact hd, hi⟩

end Sys2Proof.Machine
end

