-- ==== Sys2Proof/Laws/PerInstr.lean ====
section
/-! SUPPORT. The family of statements made per instruction. -/

namespace Sys2Proof.Laws.MatchesRow

/-- The code of an encoded instruction is the row's match value of spec/opcode_table.json: a selector that its own row of
R89 is the first to match, or one of the seven command codes of R90 with the operands R93 gives it. -/
def Statement (i : Instr) : Prop :=
  match encode i with
  | .selector w => (selectorRows.find? (rowMatches w)).map (·.instr) = some i
  | .command code operands =>
    code.toNat ≤ 6 ∧
      operands.length = (match i with
        | .txStart _ payload => 1 + payload.length
        | .envPutFwd _ | .envPutRev _ => 1
        | _ => 0)

theorem rxNobyte : Statement .rxNobyte := rfl
theorem rxAwaitStart : Statement .rxAwaitStart := rfl
theorem rxReadLength : Statement .rxReadLength := rfl
theorem rxReadPayload : Statement .rxReadPayload := rfl
theorem rxVerifyChecksum : Statement .rxVerifyChecksum := rfl
theorem rxAwaitEnd : Statement .rxAwaitEnd := rfl
theorem txIdle : Statement .txIdle := rfl
theorem txEmitStart : Statement .txEmitStart := rfl
theorem txEmitLength : Statement .txEmitLength := rfl
theorem txEmitPayload : Statement .txEmitPayload := rfl
theorem txEmitChecksum : Statement .txEmitChecksum := rfl
theorem txEmitEnd : Statement .txEmitEnd := rfl
theorem txWaitEntry : Statement .txWaitEntry := rfl
theorem txWait : Statement .txWait := rfl
theorem txDone : Statement .txDone := rfl
theorem reset : Statement .reset := by simp [Statement, encode]
theorem txStart (len : Byte) (payload : List Byte) : Statement (.txStart len payload) := by
  simp [Statement, encode, Nat.add_comm]
theorem tick : Statement .tick := by simp [Statement, encode]
theorem envPutFwd (b : Byte) : Statement (.envPutFwd b) := by simp [Statement, encode]
theorem envTakeFwd : Statement .envTakeFwd := by simp [Statement, encode]
theorem envPutRev (b : Byte) : Statement (.envPutRev b) := by simp [Statement, encode]
theorem envTakeRev : Statement .envTakeRev := by simp [Statement, encode]

end Sys2Proof.Laws.MatchesRow
end

