-- ==== Sys2Proof/Laws/Schedule.lean ====
section
/-! SUPPORT. A run without an end and the machine's own steps: no meaning reads the schedule in State, and every finite part
of an infinite run is a run of the machine with those moves to come. -/

namespace Sys2Proof.Machine

/-- An outcome with the schedule of its next state replaced. -/
def withSched (ms : List Move) : Result → Result
  | .next s => .next { s with sched := ms }
  | .fault f => .fault f
  | .refused r => .refused r

theorem pollRev_sched (s : State) (ms : List Move) :
    pollRev { s with sched := ms } = ((pollRev s).1, { (pollRev s).2 with sched := ms }) := by
  unfold pollRev
  by_cases ha : s.rev.avail = true
  · by_cases hk : s.rev.data = wireAck <;> simp [ha, hk, takeRev, slotTake, emit]
  · simp [ha]

theorem waitCheck_sched (d : Nat) (s : State) (ms : List Move) :
    waitCheck d { s with sched := ms } = { waitCheck d s with sched := ms } := by
  unfold waitCheck
  rw [pollRev_sched]
  rcases pollRev s with ⟨b, t⟩
  by_cases hb : b = true <;> by_cases hd : d ≤ t.clock <;> simp [hb, hd, txReturn, emit]

/-- A move whose body does not read the schedule does not read it either. -/
theorem move_sched {body : State → Result} {ms : List Move}
    (h : ∀ u : State, body { u with sched := ms } = withSched ms (body u)) (s : State) :
    move { s with sched := ms } body = withSched ms (move s body) := by
  unfold move
  cases hf : s.fault with
  | some f => rfl
  | none =>
    by_cases hp : paramsOk s.params = true
    · simp only [hp, if_true]
      exact h { s with fault := none, out := StepOut.zero }
    · simp [hp, withSched]

/-- No meaning reads the schedule, and none changes it. -/
theorem exec_sched (i : Instr) (s : State) (ms : List Move) :
    exec i { s with sched := ms } = withSched ms (exec i s) := by
  cases i <;>
    simp only [exec, execRxNobyte, execRxAwaitStart, execRxReadLength, execRxReadPayload, execRxVerifyChecksum,
      execRxAwaitEnd, execTxIdle, execTxEmitStart, execTxEmitLength, execTxEmitPayload, execTxEmitChecksum,
      execTxEmitEnd, execTxWaitEntry, execTxWait, execTxDone, execReset, execTxStart, execTick, execEnvPutFwd,
      execEnvTakeFwd, execEnvPutRev, execEnvTakeRev] <;>
    refine move_sched (fun u => ?_) s
  case rxAwaitStart => by_cases h : u.fwd.data = wireStart <;> simp [h, takeFwd, slotTake, emit, rxReturn, withSched]
  case rxReadPayload =>
    by_cases h : u.rx.count.toNat < u.rx.pbuf.length
    · simp [h, writeBuf, takeFwd, slotTake, emit, rxReturn, withSched]
      rfl
    · simp [h, writeBuf, takeFwd, slotTake, withSched]
  case rxVerifyChecksum => by_cases h : u.fwd.data = u.rx.acc <;> simp [h, takeFwd, slotTake, emit, rxReturn, withSched]
  case rxAwaitEnd =>
    by_cases h : u.fwd.data = wireEnd
    · by_cases hl : u.rx.expLen.toNat ≤ u.rx.pbuf.length ∧ u.rx.expLen.toNat ≤ u.rbuf.length <;>
        simp [h, accept, copyPrefix, hl, takeFwd, slotTake, putRev, emit, rxReturn, withSched]
    · simp [h, takeFwd, slotTake, emit, rxReturn, withSched]
  case txEmitPayload => cases h : readBuf u.tx.txbuf u.tx.idx.toNat <;> simp [withSched, emitByte, putFwd, emit, txReturn]
  case txWaitEntry =>
    by_cases h : tickFits u.params u.clock = true
    · simp only [h, if_true, withSched]
      rw [← waitCheck_sched]
    · simp [h, withSched]
  case txWait => simp only [withSched]; rw [← waitCheck_sched]
  case txStart len p =>
    by_cases hm : mayStart u.tx.phase = true
    · by_cases hc : u.params.cap < len.toNat
      · simp [hm, hc, raiseFault, withSched]
      · by_cases hp : p.length < len.toNat
        · simp [hm, hc, hp, withSched]
        · cases hb : copyPrefix len.toNat p u.tx.txbuf <;> simp [hm, hc, hp, emit, withSched]
    · simp [hm, raiseFault, withSched]
  case tick => by_cases h : tickFits u.params (u.clock + 1) = true <;> simp [h, withSched]
  all_goals rfl

@[simp] theorem stopOnFault_withSched (ms : List Move) (r : Result) :
    stopOnFault (withSched ms r) = withSched ms (stopOnFault r) := by
  cases r with
  | next s => cases h : s.fault <;> simp [withSched, stopOnFault, h]
  | fault f => rfl
  | refused r => rfl

/-- The same of a move. -/
theorem perform_sched (m : Move) (s : State) (ms : List Move) :
    perform m { s with sched := ms } = withSched ms (perform m s) := by
  unfold perform
  rw [fetch_sched]
  cases fetch s m with
  | error r => rfl
  | ok i => simp only [exec_sched, stopOnFault_withSched]

/-- One step of a run that answers a next state. -/
theorem run_next {s t : State} (h : step s = .next t) (n : Nat) : run (n + 1) s = run n t := by
  have hc : core.step s = .next t := h
  simp only [run, Host.Core.run, hc]
  rfl

/-- A run in two parts. -/
theorem run_append {s t : State} {n : Nat} (h : run n s = .next t) (k : Nat) : run (n + k) s = run k t := by
  induction n generalizing s with
  | zero => cases h; simp
  | succ n ih =>
    rw [show n + 1 + k = (n + k) + 1 by omega]
    cases hs : step s with
    | next u =>
      rw [run_next hs] at h ⊢
      exact ih h
    | fault f =>
      have hc : core.step s = .fault f := hs
      simp only [run, Host.Core.run, hc] at h
      cases h
    | refused r =>
      have hc : core.step s = .refused r := hs
      simp only [run, Host.Core.run, hc] at h
      cases h

/-- A finite part of an infinite run is a run of the machine with those moves to come (R181). -/
theorem run_of_infinite_run {moves : Nat → Move} {states : Nat → State} (h : IsInfiniteRun moves states) (start n : Nat)
    (ms : List Move) :
    run n { states start with sched := (List.range' start n).map moves ++ ms } =
      .next { states (start + n) with sched := ms } := by
  induction n generalizing start with
  | zero => rfl
  | succ n ih =>
    have hf : (states start).fault = none := (perform_next_enabled (h start)).1
    have hstep : step { states start with sched := (List.range' start (n + 1)).map moves ++ ms } =
        .next { states (start + 1) with sched := (List.range' (start + 1) n).map moves ++ ms } := by
      rw [step_cons (by exact hf) (by exact rfl)]
      exact (perform_sched (moves start) (states start) _).trans (by rw [h start]; rfl)
    have hrun := ih (start + 1)
    rw [show start + 1 + n = start + (n + 1) by omega] at hrun
    rw [run_next hstep, hrun]

end Sys2Proof.Machine
end

