-- ==== Sys2Proof/Tests/Slice0.lean ====
section
/-! SUPPORT. The model's own tests. Expected results are those of spec/95_test_vectors.md (the vector is named) or are
written out from the rule named; none is the model's own answer. At the end, one witness for each statement that has
hypotheses. -/

namespace Sys2Proof.Tests

open Sys2Proof.Machine

/-! ### A small state and the ways to vary it -/

/-- Nothing in flight, nothing begun; CAP = 4, ACK_WAIT_PERIOD = 4, every buffer zero. -/
def small : State :=
  { params := { cap := 4, ackWaitPeriod := 4, t0 := 0, tickW := none }
    rx := { phase := .awaitStart, expLen := 0, count := 0, acc := 0, pbuf := [0, 0, 0, 0] }
    rbuf := [0, 0, 0, 0]
    rlen := 0
    tx := { phase := .idle, len := 0, txbuf := [0, 0, 0, 0], chk := 0, idx := 0, retry := 0, deadline := 0 }
    fwd := { avail := false, data := 0, overrun := false }
    rev := { avail := false, data := 0, overrun := false }
    clock := 0
    fault := none
    trace := []
    out := StepOut.zero
    sched := []
    draws := 0 }

/-- A byte waits in FWD. -/
def withFwd (b : Byte) (s : State) : State := { s with fwd := { s.fwd with avail := true, data := b } }

/-- A byte waits in REV. -/
def withRev (b : Byte) (s : State) : State := { s with rev := { s.rev with avail := true, data := b } }

/-- The receiver is in a phase. -/
def rxAt (p : RxPhase) (s : State) : State := { s with rx := { s.rx with phase := p } }

/-- The sender is in a phase. -/
def txAt (p : TxPhase) (s : State) : State := { s with tx := { s.tx with phase := p } }

/-- The moves to come. -/
def toCome (ms : List Move) (s : State) : State := { s with sched := ms }

/-- The clock. -/
def atTick (t : Nat) (s : State) : State := { s with clock := t }

/-- CAP and the buffers of that size. -/
def withCap (n : Nat) (s : State) : State :=
  { s with
    params := { s.params with cap := n }
    rx := { s.rx with pbuf := List.replicate n 0 }
    rbuf := List.replicate n 0
    tx := { s.tx with txbuf := List.replicate n 0 } }

/-- ACK_WAIT_PERIOD. -/
def withPeriod (n : Nat) (s : State) : State := { s with params := { s.params with ackWaitPeriod := n } }

/-- The tick counter's width. -/
def withTickW (w : Nat) (s : State) : State := { s with params := { s.params with tickW := some w } }

/-- A frame of two bytes, CA FE, of which `n` have been received (vectors RX-P1, RX-P2, RX-C1, RX-E1). -/
def inFrame (p : RxPhase) (n : Nat) : State :=
  { small with
    rx :=
      { phase := p
        expLen := 2
        count := BitVec.ofNat 8 n
        acc := if n = 0 then 0 else if n = 1 then 0xCA else 0x34
        pbuf := if n = 0 then [0, 0, 0, 0] else if n = 1 then [0xCA, 0, 0, 0] else [0xCA, 0xFE, 0, 0] } }

/-- An instance over the payload CA FE of which `n` bytes have been put (vectors TX-E1 to TX-E7). -/
def inInstance (p : TxPhase) (n : Nat) : State :=
  { small with tx := { phase := p, len := 2, txbuf := [0xCA, 0xFE, 0, 0], chk := 0x34, idx := BitVec.ofNat 8 n, retry := 0, deadline := 0 } }

/-- An instance that waits with a deadline (vectors TX-W4 to TX-W8). -/
def waiting (deadline : Nat) (retry : RetryCount) : State :=
  { small with tx := { phase := .wait, len := 0, txbuf := [0, 0, 0, 0], chk := 0, idx := 0, retry := retry, deadline := deadline } }

/-- What an observer sees of a next state. -/
def seen {α : Type} (f : State → α) : Result → Option α
  | .next s => some (f s)
  | .fault _ => none
  | .refused _ => none

/-- The refusal of an outcome. -/
def refusal : Result → Option Refusal
  | .next _ => none
  | .fault _ => none
  | .refused r => some r

/-- The fault of an outcome. -/
def faultOf : Result → Option Fault
  | .next _ => none
  | .fault f => some f
  | .refused _ => none

/-! ### Well-formedness and encodings -/

/-- An ill-formed term: TX_START with a length of 2 and one payload byte (R93). -/
theorem test_wf_refuses_short_payload : (Instr.txStart 2 [0xCA]).wf = false := by decide

theorem test_wf_refuses_long_payload : (Instr.txStart 0 [0xCA]).wf = false := by decide

theorem test_wf_takes_exact_payload : (Instr.txStart 2 [0xCA, 0xFE]).wf = true := by decide

-- R89's selectors bit by bit: agent, avail, phase.
theorem test_decode_rxNobyte : decodeTableWord 6 0b000000 = some .rxNobyte := by decide
theorem test_decode_rxNobyte_any_phase : decodeTableWord 6 0b001111 = some .rxNobyte := by decide
theorem test_decode_rxAwaitStart : decodeTableWord 6 0b010000 = some .rxAwaitStart := by decide
theorem test_decode_rxReadLength : decodeTableWord 6 0b010001 = some .rxReadLength := by decide
theorem test_decode_rxReadPayload : decodeTableWord 6 0b010010 = some .rxReadPayload := by decide
theorem test_decode_rxVerifyChecksum : decodeTableWord 6 0b010011 = some .rxVerifyChecksum := by decide
theorem test_decode_rxAwaitEnd : decodeTableWord 6 0b010100 = some .rxAwaitEnd := by decide
theorem test_decode_txIdle : decodeTableWord 6 0b110000 = some .txIdle := by decide
theorem test_decode_txEmitStart : decodeTableWord 6 0b100001 = some .txEmitStart := by decide
theorem test_decode_txEmitLength : decodeTableWord 6 0b100010 = some .txEmitLength := by decide
theorem test_decode_txEmitPayload : decodeTableWord 6 0b100011 = some .txEmitPayload := by decide
theorem test_decode_txEmitChecksum : decodeTableWord 6 0b110100 = some .txEmitChecksum := by decide
theorem test_decode_txEmitEnd : decodeTableWord 6 0b100101 = some .txEmitEnd := by decide
theorem test_decode_txWaitEntry : decodeTableWord 6 0b110110 = some .txWaitEntry := by decide
theorem test_decode_txWait : decodeTableWord 6 0b100111 = some .txWait := by decide
theorem test_decode_txDone : decodeTableWord 6 0b101000 = some .txDone := by decide

-- R91: reserved phase codes match no row.
theorem test_decode_reserved_rx : decodeTableWord 6 0b010101 = none := by decide
theorem test_decode_reserved_tx : decodeTableWord 6 0b101001 = none := by decide

-- R90's command codes, operand bytes after the code byte.
theorem test_decode_reset : decodeTableWord 4 0b0000 = some .reset := by decide
theorem test_decode_txStart : decodeTableWord 32 0xFECA0201 = some (.txStart 2 [0xCA, 0xFE]) := by decide
theorem test_decode_tick : decodeTableWord 4 0b0010 = some .tick := by decide
theorem test_decode_envPutFwd : decodeTableWord 16 0x0203 = some (.envPutFwd 0x02) := by decide
theorem test_decode_envTakeFwd : decodeTableWord 4 0b0100 = some .envTakeFwd := by decide
theorem test_decode_envPutRev : decodeTableWord 16 0x0605 = some (.envPutRev 0x06) := by decide
theorem test_decode_envTakeRev : decodeTableWord 4 0b0110 = some .envTakeRev := by decide

/-- EN-10. -/
theorem test_decode_reserved_command : decodeTableWord 4 0b0111 = none := by decide

/-- EN-10, as a move. -/
theorem test_step_refuses_reserved_command :
    refusal (step (toCome [.command 0x7 []] small)) = some (.reservedCommand 0x7) := by decide

/-- A placed word is the next move, also in whole bytes. -/
theorem test_placed_word_runs : seen (·.out.rxStatus) (step (small.withFetchWord 8 0x14)) = some 0b01 := by decide

/-! ### The codec: vectors CK-1 to CK-10 and V-A -/

theorem test_ck1_ck2 : checksum [] = 0x00 ∧ checksum [0xCA, 0xFE] = 0x34 := by decide
theorem test_ck3_ck4 : checksum [0xFE, 0xCA] = 0x34 ∧ checksum [0xAB, 0xCD] = 0x66 := by decide
theorem test_ck5_ck8 : checksum [0x4F, 0x4C, 0x41] = 0x42 ∧ checksum [0x02, 0x03, 0x06] = 0x07 := by decide
theorem test_ck7_ck10 : checksum [0x12, 0x12] = 0x00 ∧ checksum [0xCA, 0xFF] = 0x35 := by decide
theorem test_va_frame : frame [0xCA, 0xFE] = [0x02, 0x02, 0xCA, 0xFE, 0x34, 0x03] := by decide

/-! ### The receiver, one step each -/

/-- RX-N1. -/
theorem test_rxNobyte : seen (fun s => (s.rx, s.out.rxStatus, s.trace)) (exec .rxNobyte (inFrame .readPayload 1)) =
    some ((inFrame .readPayload 1).rx, 0b00, []) := by decide

/-- RX-S2. -/
theorem test_rxAwaitStart_start :
    seen (fun s => (s.rx.phase, s.rx.count, s.rx.acc, s.fwd.avail, s.trace))
      (exec .rxAwaitStart (withFwd 0x02 { small with rx := { small.rx with count := 5, acc := 0x77 } })) =
    some (.readLength, 0, 0, false, [.rxStart]) := by decide

/-- RX-S3. -/
theorem test_rxAwaitStart_noise :
    seen (fun s => (s.rx.phase, s.out.rxStatus, s.trace)) (exec .rxAwaitStart (withFwd 0x03 small)) =
    some (.awaitStart, 0b01, [.rxNoise 0x03]) := by decide

/-- RX-L3. -/
theorem test_rxReadLength_reject :
    seen (fun s => (s.rx.phase, s.rx.expLen, s.trace)) (exec .rxReadLength (withFwd 0x21 (rxAt .readLength (withCap 32 small)))) =
    some (.awaitStart, 0x21, [.rxLengthReject 33]) := by decide

/-- RX-L4. -/
theorem test_rxReadLength_cap :
    seen (fun s => (s.rx.phase, s.rx.expLen, s.trace)) (exec .rxReadLength (withFwd 0x20 (rxAt .readLength (withCap 32 small)))) =
    some (.readPayload, 0x20, [.rxLength 32]) := by decide

/-- RX-P2. -/
theorem test_rxReadPayload_last :
    seen (fun s => (s.rx, s.trace)) (exec .rxReadPayload (withFwd 0xFE (inFrame .readPayload 1))) =
    some ((inFrame .verifyChecksum 2).rx, [.rxPayload 0xFE]) := by decide

/-- RX-P1. -/
theorem test_rxReadPayload_first :
    seen (fun s => s.rx) (exec .rxReadPayload (withFwd 0xCA (inFrame .readPayload 0))) =
    some (inFrame .readPayload 1).rx := by decide

/-- RX-C1. -/
theorem test_rxVerifyChecksum_ok :
    seen (fun s => (s.rx.phase, s.trace)) (exec .rxVerifyChecksum (withFwd 0x34 (inFrame .verifyChecksum 2))) =
    some (.awaitEnd, [.rxChecksumOk]) := by decide

/-- RX-C2. -/
theorem test_rxVerifyChecksum_reject :
    seen (fun s => (s.rx.phase, s.trace)) (exec .rxVerifyChecksum (withFwd 0x35 (inFrame .verifyChecksum 2))) =
    some (.awaitStart, [.rxChecksumReject 0x34 0x35]) := by decide

/-- RX-E1. -/
theorem test_rxAwaitEnd_accept :
    seen (fun s => (s.rbuf.take 2, s.rlen, s.rev, s.rx.phase, s.trace)) (exec .rxAwaitEnd (withFwd 0x03 (inFrame .awaitEnd 2))) =
    some ([0xCA, 0xFE], 2, ⟨true, 0x06, false⟩, .awaitStart, [.rxAccept 2]) := by decide

/-- RX-E3, RX-E4. -/
theorem test_rxAwaitEnd_overrun_stale :
    seen (fun s => (s.rbuf.take 2, s.rlen, s.rev))
      (exec .rxAwaitEnd (withRev 0x06 (withFwd 0x03 (rxAt .awaitEnd { small with rbuf := [0xCA, 0xFE, 0, 0], rlen := 2 })))) =
    some ([0xCA, 0xFE], 0, ⟨true, 0x06, true⟩) := by decide

/-! ### The sender, one step each -/

/-- TX-I1, dispatched by its selector. -/
theorem test_txIdle : seen (fun s => (s.rev, s.out.txStatus)) (step (toCome [.stepTx] (withRev 0x06 small))) =
    some (⟨true, 0x06, false⟩, 0b00) := by decide

/-- TX-E1. -/
theorem test_txEmitStart : seen (fun s => (s.fwd, s.tx.idx, s.tx.phase, s.trace)) (exec .txEmitStart (inInstance .emitStart 2)) =
    some (⟨true, 0x02, false⟩, 0, .emitLength, [.txByte 0x02]) := by decide

/-- TX-E8. -/
theorem test_txEmitStart_overrun : seen (·.fwd) (exec .txEmitStart (withFwd 0x03 (inInstance .emitStart 2))) =
    some ⟨true, 0x02, true⟩ := by decide

/-- TX-E2. -/
theorem test_txEmitLength : seen (fun s => (s.fwd.data, s.tx.phase)) (exec .txEmitLength (inInstance .emitLength 0)) =
    some (0x02, .emitPayload) := by decide

/-- TX-E3. -/
theorem test_txEmitLength_zero : seen (fun s => (s.fwd.data, s.tx.phase)) (exec .txEmitLength (txAt .emitLength small)) =
    some (0x00, .emitChecksum) := by decide

/-- TX-E4. -/
theorem test_txEmitPayload_first : seen (fun s => (s.fwd.data, s.tx.idx, s.tx.phase)) (exec .txEmitPayload (inInstance .emitPayload 0)) =
    some (0xCA, 1, .emitPayload) := by decide

/-- TX-E5. -/
theorem test_txEmitPayload_last : seen (fun s => (s.fwd.data, s.tx.idx, s.tx.phase)) (exec .txEmitPayload (inInstance .emitPayload 1)) =
    some (0xFE, 2, .emitChecksum) := by decide

/-- TX-E6. -/
theorem test_txEmitChecksum : seen (fun s => (s.fwd.data, s.tx.phase)) (exec .txEmitChecksum (inInstance .emitChecksum 2)) =
    some (0x34, .emitEnd) := by decide

/-- TX-E7. -/
theorem test_txEmitEnd : seen (fun s => (s.fwd.data, s.tx.phase)) (exec .txEmitEnd (inInstance .emitEnd 2)) =
    some (0x03, .waitEntry) := by decide

/-- TX-W2. -/
theorem test_txWaitEntry_ack :
    seen (fun s => (s.tx.deadline, s.rev.avail, s.tx.phase, s.out.txStatus, s.trace))
      (exec .txWaitEntry (withRev 0x06 (atTick 6 (inInstance .waitEntry 2)))) =
    some (10, false, .done, 0b10, [.txAck]) := by decide

/-- TX-W3. -/
theorem test_txWaitEntry_zero_period :
    seen (fun s => (s.tx.deadline, s.tx.retry, s.tx.phase, s.fwd.avail, s.trace))
      (exec .txWaitEntry (withPeriod 0 (atTick 5 (inInstance .waitEntry 2)))) =
    some (5, 1, .emitStart, false, [.txTimeout]) := by decide

/-- TX-W6. -/
theorem test_txWait_ack_wins :
    seen (fun s => (s.tx.phase, s.tx.retry, s.out.txStatus)) (exec .txWait (withRev 0x06 (atTick 12 (waiting 10 2)))) =
    some (.done, 2, 0b10) := by decide

/-- TX-W8; R8, R35: the retry counter saturates. -/
theorem test_txWait_timeout :
    seen (fun s => (s.rev.avail, s.tx.retry, s.tx.phase, s.trace)) (exec .txWait (withRev 0x15 (atTick 10 (waiting 10 0)))) =
      some (false, 1, .emitStart, [.txDiscard 0x15, .txTimeout]) ∧
    seen (·.tx.retry) (exec .txWait (atTick 10 (waiting 10 0xFFFFFFFF))) = some 0xFFFFFFFF := by decide

/-- TX-D1. -/
theorem test_txDone : seen (fun s => (s.tx.phase, s.out.txStatus)) (exec .txDone (txAt .done small)) = some (.done, 0b10) := by decide

/-! ### The host and the environment, one step each -/

/-- TX-S3. -/
theorem test_txStart_again :
    seen (fun s => (s.tx, s.trace))
      (exec (.txStart 2 [0xAB, 0xCD]) { small with tx := { small.tx with phase := .done, retry := 3, deadline := 10 } }) =
    some (⟨.emitStart, 2, [0xAB, 0xCD, 0, 0], 0x66, 0, 0, 10⟩, [.txStart 2]) := by decide

/-- TX-S6, TX-S5: busy is checked before the length (R208). -/
theorem test_txStart_faults :
    seen (·.fault) (exec (.txStart 5 [1, 2, 3, 4, 5]) (waiting 10 0)) = some (some (.startBusy .wait)) ∧
    seen (·.fault) (exec (.txStart 5 [1, 2, 3, 4, 5]) small) = some (some (.startLen 5)) := by decide

/-- R42: no move after a fault. R201: the faulted state is no final state of a run, so the move that raises the fault (TX-S4,
TX-S5) answers no next state. -/
theorem test_fault_stops :
    faultOf (step (toCome [.stepRx] { small with fault := some (.startLen 5) })) = some (.startLen 5) ∧
    faultOf (step (toCome [Program.txStart [0x01]] (txAt .emitLength small))) = some (.startBusy .emitLength) ∧
    faultOf (step (toCome [Program.txStart [1, 2, 3, 4, 5]] small)) = some (.startLen 5) := by decide

/-- EN-1. -/
theorem test_tick : seen (·.clock) (exec .tick (atTick 9 small)) = some 10 := by decide

/-- EN-2. -/
theorem test_envPutFwd : seen (·.fwd) (exec (.envPutFwd 0x02) small) = some ⟨true, 0x02, false⟩ := by decide

/-- EN-3. -/
theorem test_envPutFwd_overrun : seen (·.fwd) (exec (.envPutFwd 0x55) (withFwd 0x02 small)) = some ⟨true, 0x55, true⟩ := by decide

/-- EN-4. -/
theorem test_envTakeFwd : seen (·.fwd.avail) (exec .envTakeFwd (withFwd 0xAB small)) = some false := by decide

/-- EN-6. -/
theorem test_envPutRev : seen (·.rev) (exec (.envPutRev 0x06) small) = some ⟨true, 0x06, false⟩ := by decide

/-- EN-7. -/
theorem test_envTakeRev : seen (·.rev.avail) (exec .envTakeRev (withRev 0x06 small)) = some false := by decide

/-- EN-8's state before. -/
def beforeReset : State :=
  withRev 0x06 (withFwd 0x02 (atTick 40
    { waiting 10 3 with rx := { small.rx with phase := .readPayload, expLen := 2, count := 1 }, rbuf := [1, 2, 3, 4], rlen := 2 }))

/-- EN-8, the block. -/
theorem test_reset_block :
    seen (fun s => (s.rx.phase, s.rx.count, s.rbuf, s.rlen, s.tx.retry, s.tx.deadline)) (exec .reset beforeReset) =
    some (.awaitStart, 0, [0, 0, 0, 0], 0, 0, 0) := by decide

/-- EN-8, what RESET leaves. -/
theorem test_reset_leaves :
    seen (fun s => (s.rev, s.fwd, s.clock)) (exec .reset beforeReset) =
    some (⟨true, 0x06, false⟩, ⟨true, 0x02, false⟩, 40) := by decide

/-- R44: `rbuf_o` and the payload bus carry byte `i` on bits [8i+7:8i]. -/
theorem test_bus : rbufO { small with rbuf := [0xCA, 0xFE, 0, 0] } = 0xFECA ∧ startSignals 2 0xFECA = [2, 0xCA, 0xFE] := by decide

/-- R46, R60: a host read, inside and outside a buffer. -/
theorem test_host_read : hostRead (inFrame .awaitEnd 2) (.pbuf 1) = some 0xFE ∧ hostRead small (.pbuf 4) = none := by decide

/-! ### Witnesses: for each statement with hypotheses, states and operands that meet them, clause by clause -/

/-- The invariant in a state where nothing has begun. -/
theorem inv_small : Inv small :=
  ⟨by decide, by decide, ⟨by decide, by decide, by decide, by decide, by decide⟩,
    ⟨by decide, by decide, by decide, by decide⟩, ⟨by decide, by decide, by decide⟩⟩

/-- The invariant inside a frame and inside an instance, with a move to come. -/
def midway : State :=
  { inFrame .readPayload 1 with tx := (inInstance .emitPayload 1).tx, fwd := ⟨true, 0xFE, false⟩, sched := [.stepRx, .stepTx, Program.tick] }

theorem inv_midway : Inv midway :=
  ⟨by decide, by decide, ⟨by decide, by decide, by decide, by decide, by decide⟩,
    ⟨by decide, by decide, by decide, by decide⟩, ⟨by decide, by decide, by decide⟩⟩

theorem test_witness_CommandCodeNamesItsOperation :
    ([0xCA, 0xFE] : List Byte).length = (2 : Byte).toNat ∧ ([] : List Byte).length = (0 : Byte).toNat ∧
      7 ≤ (0x7 : BitVec 4).toNat ∧ 7 ≤ (0xF : BitVec 4).toNat := by decide

theorem test_witness_DecodeOfEncodeIsTheInstruction :
    (Instr.txStart 2 [0xCA, 0xFE]).wf = true ∧ Instr.rxAwaitEnd.wf = true ∧ (Instr.envPutRev 0x06).wf = true := by decide

theorem test_witness_EncodeOfDecodedCommandIsTheCommand :
    decodeCommand 0x1 [2, 0xCA, 0xFE] = .ok (.txStart 2 [0xCA, 0xFE]) := rfl

theorem test_witness_PayloadBusCarriesByteIAtBit8I :
    ([0xCA, 0xFE] : List Byte).length = (2 : Byte).toNat := by decide

theorem test_witness_OutputsAreViewsOfTheirRegisters : 0 < small.rbuf.length ∧ 3 < small.rbuf.length := by decide

theorem test_witness_StepExecutesTheDecodedMove :
    midway.fault = none ∧ midway.sched = .stepRx :: [.stepTx, Program.tick] ∧
      decodeSelector (rxSelector midway) = .ok .rxReadPayload ∧
      (toCome [.stepTx] midway).sched = .stepTx :: [] ∧ decodeSelector (txSelector midway) = .ok .txEmitPayload ∧
      (toCome [Program.tick] midway).sched = .command 0x2 [] :: [] ∧ decodeCommand 0x2 [] = .ok .tick :=
  ⟨rfl, rfl, rfl, rfl, rfl, rfl, rfl⟩

theorem test_witness_ReceiverStepDispatchesOnPhase :
    midway.fault = none ∧ midway.sched = .stepRx :: [.stepTx, Program.tick] ∧ (∃ t, step midway = .next t) ∧
      ∃ t, step (toCome [.stepRx] small) = .next t :=
  ⟨rfl, rfl, ⟨_, rfl⟩, ⟨_, rfl⟩⟩

theorem test_witness_SenderStepDispatchesOnPhase :
    (toCome [.stepTx] midway).fault = none ∧ (toCome [.stepTx] midway).sched = .stepTx :: [] ∧
      ∃ t, step (toCome [.stepTx] midway) = .next t :=
  ⟨rfl, rfl, ⟨_, rfl⟩⟩

theorem test_witness_NoMoveLeavesTheStateFrozen : small.fault = none ∧ small.sched = [] := ⟨rfl, rfl⟩

theorem test_witness_NobyteReturnsWaitingAndChangesNothing : Enabled small := by decide

theorem test_witness_AwaitStartLooksForTheStartMarker :
    Enabled (withFwd 0x02 small) ∧ (withFwd 0x02 small).fwd.data = 0x02 ∧
      Enabled (withFwd 0x03 small) ∧ (withFwd 0x03 small).fwd.data ≠ 0x02 := by decide

/-- LENGTH 0, 1, CAP and CAP + 1. -/
theorem test_witness_ReadLengthRecordsTheLength :
    Enabled (withFwd 5 small) ∧ (withFwd 5 small).params.cap < (withFwd 5 small).fwd.data.toNat ∧
      Enabled (withFwd 0 small) ∧ (withFwd 0 small).fwd.data = 0 ∧
      Enabled (withFwd 1 small) ∧ (withFwd 1 small).fwd.data ≠ 0 ∧
      (withFwd 4 small).fwd.data.toNat ≤ (withFwd 4 small).params.cap := by decide

/-- The last element of the buffer. -/
theorem test_witness_ReadPayloadCollectsOneByte :
    Enabled { small with rx := { small.rx with count := 3 } } ∧ (3 : Byte).toNat < small.rx.pbuf.length := by decide

theorem test_witness_VerifyChecksumComparesWithTheFold :
    Enabled (withFwd 0x34 (inFrame .verifyChecksum 2)) ∧
      (withFwd 0x34 (inFrame .verifyChecksum 2)).fwd.data = (inFrame .verifyChecksum 2).rx.acc ∧
      (withFwd 0x35 (inFrame .verifyChecksum 2)).fwd.data ≠ (inFrame .verifyChecksum 2).rx.acc := by decide

/-- Length 0, length CAP, and another byte than END. -/
theorem test_witness_AwaitEndAcceptsOrDiscards :
    Enabled (withFwd 0x03 small) ∧ (withFwd 0x03 small).fwd.data = 0x03 ∧
      small.rx.expLen.toNat ≤ small.rx.pbuf.length ∧ (4 : Byte).toNat ≤ small.rx.pbuf.length ∧
      (4 : Byte).toNat ≤ small.rbuf.length ∧ (withFwd 0x02 small).fwd.data ≠ 0x03 := by decide

theorem test_witness_IdleAndDoneChangeNothing : Enabled small := by decide

theorem test_witness_EmitStartChecksumEndPutTheirByte : Enabled (inInstance .emitChecksum 2) := by decide

theorem test_witness_EmitLengthPutsTheLength : Enabled (inInstance .emitLength 0) := by decide

/-- The first and the last byte of the payload. -/
theorem test_witness_EmitPayloadPutsTheNextByte :
    Enabled (inInstance .emitPayload 0) ∧
      (inInstance .emitPayload 0).tx.txbuf[(inInstance .emitPayload 0).tx.idx.toNat]? = some 0xCA ∧
      (inInstance .emitPayload 1).tx.txbuf[(inInstance .emitPayload 1).tx.idx.toNat]? = some 0xFE := by decide

/-- An ACK after the deadline; the deadline reached exactly; one tick before it, with another byte in REV. -/
theorem test_witness_WaitDecidesByAckThenDeadline :
    Enabled (withRev 0x06 (atTick 12 (waiting 10 2))) ∧ (withRev 0x06 (waiting 10 2)).rev.data = 0x06 ∧
      (withRev 0x06 (waiting 10 2)).rev.avail = true ∧
      (¬ ((waiting 10 0).rev.avail = true ∧ (waiting 10 0).rev.data = 0x06)) ∧
      (atTick 10 (waiting 10 0)).tx.deadline ≤ (atTick 10 (waiting 10 0)).clock ∧
      (¬ ((withRev 0x15 (waiting 10 0)).rev.avail = true ∧ (withRev 0x15 (waiting 10 0)).rev.data = 0x06)) ∧
      (atTick 9 (waiting 10 0)).clock < (atTick 9 (waiting 10 0)).tx.deadline := by decide

/-- The last tick that fits a counter of 3 bits, and wait periods 0 and 4. -/
theorem test_witness_WaitEntryCapturesTheDeadline :
    Enabled (withTickW 3 (atTick 3 small)) ∧ tickFits (withTickW 3 small).params 3 = true ∧
      (withRev 0x06 small).rev.avail = true ∧ (withRev 0x06 small).rev.data = 0x06 ∧
      (¬ (small.rev.avail = true ∧ small.rev.data = 0x06)) ∧
      (withPeriod 0 small).params.ackWaitPeriod = 0 ∧ 0 < small.params.ackWaitPeriod := by decide

/-- Payloads of 0, CAP and CAP + 1 bytes, and an instance in progress. -/
theorem test_witness_TxStartLatchesOrFaults :
    Enabled small ∧ ([] : List Byte).length = (0 : Byte).toNat ∧ ([1, 2, 3, 4] : List Byte).length = (4 : Byte).toNat ∧
      (small.tx.phase = .idle ∨ small.tx.phase = .done) ∧
      ((txAt .done small).tx.phase = .idle ∨ (txAt .done small).tx.phase = .done) ∧
      (4 : Byte).toNat ≤ small.params.cap ∧ (4 : Byte).toNat ≤ small.tx.txbuf.length ∧
      ((waiting 10 0).tx.phase ≠ .idle ∧ (waiting 10 0).tx.phase ≠ .done) ∧
      ([1, 2, 3, 4, 5] : List Byte).length = (5 : Byte).toNat ∧ small.params.cap < (5 : Byte).toNat := by decide

/-- A state with a fault; the first length above CAP and the two ends of the busy phases; steps and runs that fault, and a run
that goes on. -/
theorem test_witness_FaultStopsEveryMove :
    ({ small with fault := some (.startLen 5) } : State).fault = some (.startLen 5) ∧
      Enabled small ∧ ([1, 2, 3, 4, 5] : List Byte).length = (5 : Byte).toNat ∧
      (toCome [Program.txStart [1, 2, 3, 4, 5]] small).sched = .command 0x1 [5, 1, 2, 3, 4, 5] :: [] ∧
      (small.tx.phase = .idle ∨ small.tx.phase = .done) ∧ small.params.cap < (5 : Byte).toNat ∧
      Enabled (txAt .emitStart small) ∧
      ((txAt .emitStart small).tx.phase ≠ .idle ∧ (txAt .emitStart small).tx.phase ≠ .done) ∧
      ((txAt .wait small).tx.phase ≠ .idle ∧ (txAt .wait small).tx.phase ≠ .done) ∧
      Safe small ∧ step (toCome [Program.txStart [1, 2, 3, 4, 5]] small) = .fault (.startLen 5) ∧
      run 1 (toCome [Program.txStart [1, 2, 3, 4, 5]] small) = .fault (.startLen 5) ∧
      Safe midway ∧ ∃ t, run 1 midway = .next t :=
  ⟨rfl, by decide, by decide, rfl, by decide, by decide, by decide, by decide, by decide, rfl, rfl, rfl, rfl, _, rfl⟩

theorem test_witness_ResetGivesTheResetValues : Enabled beforeReset := by decide

theorem test_witness_TickAddsOne :
    Enabled (atTick 9 small) ∧ tickFits small.params 10 = true ∧
      Enabled (withTickW 3 (atTick 2 small)) ∧ tickFits (withTickW 3 small).params 3 = true := by decide

theorem test_witness_EnvironmentPutsAndDropsBytes : Enabled (withFwd 0x02 (withRev 0x06 small)) := by decide

/-- One state for each refusal: CAP = 0 and 256; an index one past each buffer; a length one past each buffer; one payload byte
too few; the first tick that does not fit; the codes 0x7 and 0xF; missing and further operand bytes; and a step refused. -/
theorem test_witness_RefusalsAreThoseOfTheList :
    (small.fault = none ∧ paramsOk (withCap 0 small).params = false ∧ paramsOk (withCap 256 small).params = false) ∧
      (Enabled { small with rx := { small.rx with count := 4 } } ∧ small.rx.pbuf.length ≤ (4 : Byte).toNat) ∧
      (Enabled { small with tx := { small.tx with idx := 4 } } ∧ small.tx.txbuf.length ≤ (4 : Byte).toNat) ∧
      (Enabled (withFwd 0x03 { small with rx := { small.rx with expLen := 5 } }) ∧ small.rx.pbuf.length < (5 : Byte).toNat) ∧
      (Enabled (withFwd 0x03 { small with rx := { small.rx with expLen := 4 }, rbuf := [0, 0, 0] }) ∧
        ({ small with rbuf := [0, 0, 0] } : State).rbuf.length < (4 : Byte).toNat) ∧
      (Enabled { small with tx := { small.tx with txbuf := [0, 0, 0] } } ∧ (small.tx.phase = .idle ∨ small.tx.phase = .done) ∧
        (4 : Byte).toNat ≤ small.params.cap ∧ (4 : Byte).toNat ≤ ([1, 2, 3, 4] : List Byte).length ∧
        ([0, 0, 0] : List Byte).length < (4 : Byte).toNat) ∧
      (([1, 2, 3] : List Byte).length < (4 : Byte).toNat) ∧
      (Enabled (withTickW 3 (atTick 4 small)) ∧ tickFits (withTickW 3 small).params 4 = false) ∧
      (Enabled (withTickW 3 (atTick 3 small)) ∧ tickFits (withTickW 3 small).params (3 + 1) = false) ∧
      ((toCome [.command 0x7 []] small).sched = .command 0x7 [] :: [] ∧ 7 ≤ (0x7 : BitVec 4).toNat ∧ 7 ≤ (0xF : BitVec 4).toNat) := by
  decide

theorem test_witness_RefusalsAreThoseOfTheList_operands :
    (0x6 : BitVec 4).toNat ≤ 6 ∧ (∀ i : Instr, decodeCommand 0x6 [0x00] ≠ .ok i) ∧
      (∀ i : Instr, decodeCommand 0x1 [2, 0xCA] ≠ .ok i) ∧
      step (toCome [.command 0x3 []] small) = .refused (.operandCount 0x3 0) :=
  ⟨by decide, by simp [decodeCommand, noOperands], by simp [decodeCommand, startOperands], rfl⟩

/-- The two agents, TICK, and TX_START at length CAP. -/
theorem test_witness_EveryMoveGoesOnUnlessTxStartIsMisused :
    Inv midway ∧ midway.fault = none ∧ tickFits midway.params (midway.clock + 1) = true ∧
      midway.sched = .stepRx :: [.stepTx, Program.tick] ∧ Inv (toCome [.stepTx] small) ∧ Inv (toCome [Program.tick] small) ∧
      Instr.tick.wf = true ∧ encode .tick = .command 0x2 [] ∧ Program.tick = .command 0x2 [] ∧
      (∀ (len : Byte) (p : List Byte), Instr.tick ≠ .txStart len p) ∧
      (Instr.txStart 4 [1, 2, 3, 4]).wf = true ∧ encode (.txStart 4 [1, 2, 3, 4]) = .command 0x1 [4, 1, 2, 3, 4] ∧
      (small.tx.phase = .idle ∨ small.tx.phase = .done) ∧ (4 : Byte).toNat ≤ small.params.cap :=
  ⟨inv_midway, rfl, rfl, rfl,
    ⟨inv_small.1, inv_small.2, ⟨inv_small.3.1, inv_small.3.2, inv_small.3.3, inv_small.3.4, inv_small.3.5⟩,
      ⟨inv_small.4.1, inv_small.4.2, inv_small.4.3, inv_small.4.4⟩, ⟨inv_small.5.1, inv_small.5.2, inv_small.5.3⟩⟩,
    ⟨inv_small.1, inv_small.2, ⟨inv_small.3.1, inv_small.3.2, inv_small.3.3, inv_small.3.4, inv_small.3.5⟩,
      ⟨inv_small.4.1, inv_small.4.2, inv_small.4.3, inv_small.4.4⟩, ⟨inv_small.5.1, inv_small.5.2, inv_small.5.3⟩⟩,
    rfl, rfl, rfl, by simp, by decide, rfl, by decide, by decide⟩

theorem test_witness_ChecksumIgnoresOrder : ([0xCA, 0xFE] : List Byte).Perm [0xFE, 0xCA] := List.Perm.swap _ _ _

theorem test_witness_ChecksumSeesOneChangedByte :
    1 < ([0xCA, 0xFE] : List Byte).length ∧ ([0xCA, 0xFE] : List Byte)[1] ≠ 0xFF ∧ 0 < ([0xCA, 0xFE] : List Byte).length ∧
      (0 : Nat) ≠ 1 := by decide

theorem test_witness_EveryStepKeepsTheInvariant : Inv midway ∧ ∃ t, step midway = .next t := ⟨inv_midway, _, rfl⟩

theorem test_witness_PowerOnHasTheInvariant :
    paramsOk Params.default = true ∧ paramsOk ⟨1, 0, 0, none⟩ = true ∧ paramsOk ⟨255, 4, 3, some 3⟩ = true := by decide

theorem test_witness_EachRegisterHasItsWriters :
    (∃ t, exec .tick small = .next t) ∧ Instr.tick.isReceiver = false ∧ Instr.tick ≠ .reset ∧ Instr.tick ≠ .rxAwaitEnd ∧
      Instr.tick.isStart = false ∧ Instr.tick.isWait = false ∧ Instr.tick.isSender = false ∧ Instr.tick ≠ .txWaitEntry ∧
      Instr.tick.isEmission = false ∧ Instr.tick ≠ .envTakeFwd ∧ Instr.tick.isPutFwd = false ∧ Instr.tick ≠ .envTakeRev ∧
      Instr.tick.isPutRev = false ∧ (∃ t, exec .rxNobyte small = .next t) ∧ Instr.rxNobyte ≠ .tick :=
  ⟨⟨_, rfl⟩, by decide, by decide, by decide, by decide, by decide, by decide, by decide, by decide, by decide, by decide,
    by decide, by decide, ⟨_, rfl⟩, by decide⟩

theorem test_witness_OnlyTickMovesTheClock : (∃ t, exec .tick small = .next t) ∧ ∃ t, exec .txIdle small = .next t :=
  ⟨⟨_, rfl⟩, ⟨_, rfl⟩⟩

theorem test_witness_RetryCountsTimeouts :
    Instr.txWait ≠ .reset ∧ Instr.txWait.isStart = false ∧
      ∃ t, exec .txWait (atTick 10 (waiting 10 0)) = .next t ∧ t.tx.retry ≠ (waiting 10 0).tx.retry :=
  ⟨by decide, by decide, _, rfl, by decide⟩

theorem test_witness_OneAckPerAcceptAndNoOtherByte :
    ∃ t, exec .rxAwaitEnd (withFwd 0x03 (inFrame .awaitEnd 2)) = .next t ∧ t.out.revPut = true := ⟨_, rfl, rfl⟩

theorem test_witness_RejectionsAreSilent :
    Instr.rxAwaitEnd.isReceiver = true ∧
      ∃ t, exec .rxAwaitEnd (withFwd 0x04 (inFrame .awaitEnd 2)) = .next t ∧ t.out.revPut = false := ⟨rfl, _, rfl, rfl⟩

theorem test_witness_OverrunIsSetByAPutIntoAFullSlotOnly :
    (∃ t, exec (.envPutFwd 0x55) (withFwd 0x02 small) = .next t) ∧
      ∃ t, exec .rxAwaitEnd (withRev 0x06 (withFwd 0x03 small)) = .next t := ⟨⟨_, rfl⟩, ⟨_, rfl⟩⟩

theorem test_witness_SignalsAreDrivenByTheirAgent :
    (∃ t, exec .txEmitEnd small = .next t ∧ t.out.fwdPut = true) ∧
      (∃ t, exec .txWait (withRev 0x06 small) = .next t ∧ t.out.revTake = true) ∧
      ∃ t, exec .rxAwaitStart (withFwd 0x02 small) = .next t ∧ t.out.fwdTake = true :=
  ⟨⟨_, rfl, rfl⟩, ⟨_, rfl, rfl⟩, ⟨_, rfl, rfl⟩⟩

theorem test_witness_StatusTellsWhatTheStepDid :
    midway.fault = none ∧ (∃ t, step midway = .next t) ∧ midway.sched = .stepRx :: [.stepTx, Program.tick] ∧
      (toCome [.stepTx] midway).sched = .stepTx :: [] ∧
      ∃ t, step (toCome [.stepTx] midway) = .next t ∧ t.out.fwdPut = true :=
  ⟨rfl, ⟨_, rfl⟩, rfl, rfl, _, rfl, rfl⟩

theorem test_witness_TraceOnlyGrows :
    (∃ t, exec .txWait (withRev 0x15 (waiting 0 0)) = .next t) ∧ (∃ t, exec .tick small = .next t) ∧
      ∃ t, exec .rxNobyte small = .next t := ⟨⟨_, rfl⟩, ⟨_, rfl⟩, ⟨_, rfl⟩⟩

theorem test_witness_AwaitEndIsEnteredOnlyOnAMatch :
    (inFrame .verifyChecksum 2).rx.phase ≠ .awaitEnd ∧
      ∃ t, exec .rxVerifyChecksum (withFwd 0x34 (inFrame .verifyChecksum 2)) = .next t ∧ t.rx.phase = .awaitEnd :=
  ⟨by decide, _, rfl, rfl⟩

theorem test_witness_OnlyWaitStepsExamineRev :
    (∃ t, exec .txEmitStart (withRev 0x06 small) = .next t) ∧ Instr.txEmitStart.isSender = true ∧
      Instr.txEmitStart.isWait = false := ⟨⟨_, rfl⟩, rfl, rfl⟩

theorem test_witness_QuiescentAgentsChangeNothing :
    Quiescent (toCome [.stepTx] small) ∧ paramsOk small.params = true ∧ (toCome [.stepTx] small).sched = .stepTx :: [] ∧
      Quiescent (toCome [.stepRx] (txAt .done small)) :=
  ⟨⟨rfl, rfl, rfl, rfl, .inl rfl⟩, rfl, rfl, ⟨rfl, rfl, rfl, rfl, .inr rfl⟩⟩

/-- Two states that differ in a stale buffer element and in the data of the empty slots. -/
theorem test_witness_StaleBytesAreNeverRead :
    Inv midway ∧ StaleAgree midway
      { midway with
        rx := { midway.rx with pbuf := [0xCA, 0x77, 0, 0] }, tx := { midway.tx with txbuf := [0xCA, 0xFE, 0x55, 0] },
        rev := ⟨false, 0x99, false⟩ } :=
  ⟨inv_midway, rfl, ⟨rfl, rfl, fun _ => rfl⟩, ⟨rfl, rfl, fun h => by cases h⟩, rfl, rfl, fun _ => rfl, fun _ => rfl⟩

theorem test_witness_AnAttemptPutsTheWholeFrame :
    Enabled (toCome (List.replicate 6 .stepTx ++ [.stepTx]) (inInstance .emitStart 0)) ∧
      (inInstance .emitStart 0).tx.phase = .emitStart ∧
      (inInstance .emitStart 0).tx.len.toNat ≤ (inInstance .emitStart 0).tx.txbuf.length ∧
      4 + (inInstance .emitStart 0).tx.len.toNat = 6 := by decide

/-- A frame of CAP bytes, and an empty one. -/
theorem test_witness_AFrameFedInIsAccepted :
    let s := toCome (Program.feedAll ([0x02, 4] ++ [1, 2, 3, 4] ++ [checksum [1, 2, 3, 4], 0x03]) ++ [.stepRx]) small
    Enabled s ∧ Memory.wf s ∧ ([1, 2, 3, 4] : List Byte).length ≤ s.params.cap ∧ ([] : List Byte).length ≤ s.params.cap ∧
      s.rx.phase = .awaitStart ∧ s.fwd.avail = false ∧ (BitVec.ofNat 8 ([1, 2, 3, 4] : List Byte).length) = 4 := by decide

theorem test_witness_AWrongChecksumIsRejected :
    let s := toCome (Program.feedAll ([0x02, 2] ++ [0xCA, 0xFE] ++ [0x35]) ++ [.stepRx]) small
    Enabled s ∧ Memory.wf s ∧ ([0xCA, 0xFE] : List Byte).length ≤ s.params.cap ∧ s.rx.phase = .awaitStart ∧
      s.fwd.avail = false ∧ (0x35 : Byte) ≠ checksum [0xCA, 0xFE] := by decide

theorem test_witness_GarbageWithoutStartIsDropped :
    let s := toCome (Program.feedAll [0x55, 0xAA, 0x03, 0x06, 0xFF] ++ [.stepRx]) small
    Enabled s ∧ s.rx.phase = .awaitStart ∧ s.fwd.avail = false ∧
      ∀ b ∈ ([0x55, 0xAA, 0x03, 0x06, 0xFF] : List Byte), b ≠ 0x02 := by decide

/-- P2's schedule. -/
theorem test_witness_TransmissionCompletesUnderCycle :
    let s := toCome (Program.txStart [0xCA, 0xFE] :: Program.repeatOps 7 Program.cycle ++ [.stepTx]) small
    Enabled s ∧ Memory.wf s ∧ ([0xCA, 0xFE] : List Byte).length ≤ s.params.cap ∧
      (s.tx.phase = .idle ∨ s.tx.phase = .done) ∧ s.rx.phase = .awaitStart ∧ s.fwd.avail = false ∧ s.rev.avail = false ∧
      tickFits s.params (s.clock + (5 + ([0xCA, 0xFE] : List Byte).length)) = true := by decide

theorem test_witness_TransmissionCompletesUnderCycleRt :
    let s := toCome (Program.txStart [0xCA, 0xFE] :: Program.repeatOps 7 Program.cycleRt ++ [.stepTx]) (txAt .done small)
    Enabled s ∧ Memory.wf s ∧ ([0xCA, 0xFE] : List Byte).length ≤ s.params.cap ∧
      (s.tx.phase = .idle ∨ s.tx.phase = .done) ∧ s.rx.phase = .awaitStart ∧ s.fwd.avail = false ∧ s.rev.avail = false ∧
      tickFits s.params (s.clock + (5 + ([0xCA, 0xFE] : List Byte).length)) = true := by decide

/-- TX-S7's state. -/
theorem test_witness_AStaleAckCompletesANewInstance :
    let s := toCome (Program.txStart [0x11] :: List.replicate 6 .stepTx ++ [.stepRx]) (withRev 0x06 (txAt .done small))
    Enabled s ∧ Memory.wf s ∧ ([0x11] : List Byte).length ≤ s.params.cap ∧ (s.tx.phase = .idle ∨ s.tx.phase = .done) ∧
      s.rev.avail = true ∧ s.rev.data = 0x06 ∧ tickFits s.params s.clock = true := by decide

/-! #### One fair infinite run: the empty payload is sent under the default cycle, and the cycle goes on for ever -/

/-- TX_START, then the default cycle without an end. -/
def cycleMoves : Nat → Move
  | 0 => Program.txStart []
  | n + 1 => if n % 3 = 0 then .stepTx else if n % 3 = 1 then .stepRx else Program.tick

/-- The state a move leads to. -/
def after (m : Move) (s : State) : State := (seen id (perform m s)).getD s

/-- The states of that run. -/
def cycleStates : Nat → State
  | 0 => small
  | n + 1 => after (cycleMoves n) (cycleStates n)

/-- The state after the five cycles of R192, at any later tick: the ACK taken at tick 4 found the deadline 8. -/
def quietAt (c : Nat) : State :=
  { small with
    tx := { small.tx with phase := .done, deadline := 8 }
    fwd := { avail := false, data := 0x03, overrun := false }
    rev := { avail := false, data := 0x06, overrun := false }
    clock := c
    trace := [.txStart 0, .txByte 0x02, .rxStart, .txByte 0, .rxLength 0, .txByte 0, .rxChecksumOk, .txByte 0x03, .rxAccept 0,
      .txAck] }

theorem cycleMoves_tx (q : Nat) : cycleMoves (16 + 3 * q) = .stepTx := by
  rw [show 16 + 3 * q = (15 + 3 * q) + 1 by omega, cycleMoves, if_pos (by omega)]

theorem cycleMoves_rx (q : Nat) : cycleMoves (17 + 3 * q) = .stepRx := by
  rw [show 17 + 3 * q = (16 + 3 * q) + 1 by omega, cycleMoves, if_neg (by omega), if_pos (by omega)]

theorem cycleMoves_tick (q : Nat) : cycleMoves (18 + 3 * q) = Program.tick := by
  rw [show 18 + 3 * q = (17 + 3 * q) + 1 by omega, cycleMoves, if_neg (by omega), if_neg (by omega)]

/-- What TX.DONE drives. -/
def doneOut : StepOut := { StepOut.zero with txStatus := 0b10 }

/-- The quiet state is possible, and what the three moves of a cycle make of it (R191: nothing but the outputs and the clock). -/

theorem quiet_enabled (c : Nat) : Enabled (quietAt c) := ⟨rfl, rfl⟩

theorem quiet_tx (c : Nat) :
    perform .stepTx (quietAt c) = .next { quietAt c with out := doneOut } := by
  have hs : encodedMove (quietAt c) .stepTx = .selector 0x28 := by simp [encodedMove, txSelector, quietAt, TxPhase.code]
  have hd : decode (encodedMove (quietAt c) .stepTx) = .ok .txDone := hs ▸ rfl
  simp only [perform, fetch_ok.mpr hd, exec, execTxDone, move_of_enabled (quiet_enabled c)]
  rfl

theorem quiet_rx (c : Nat) (o : StepOut) :
    perform .stepRx { quietAt c with out := o } = .next (quietAt c) := by
  have hs : encodedMove { quietAt c with out := o } .stepRx = .selector 0x00 := by simp [encodedMove, rxSelector, quietAt, small, RxPhase.code]
  have hd : decode (encodedMove { quietAt c with out := o } .stepRx) = .ok .rxNobyte := hs ▸ rfl
  simp only [perform, fetch_ok.mpr hd, exec, execRxNobyte]
  rw [move_of_enabled (show Enabled { quietAt c with out := o } from quiet_enabled c)]
  rfl

theorem quiet_tick (c : Nat) : perform Program.tick (quietAt c) = .next (quietAt (c + 1)) := by
  have hd : decode (encodedMove (quietAt c) Program.tick) = .ok .tick := rfl
  simp only [perform, fetch_ok.mpr hd, exec, execTick, move_of_enabled (quiet_enabled c)]
  rfl

theorem after_of {m : Move} {s t : State} (h : perform m s = .next t) : after m s = t := by simp [after, h, seen]

/-- After the transmission each cycle adds one tick and changes nothing else but the outputs. -/
theorem cycleStates_quiet (q : Nat) :
    cycleStates (16 + 3 * q) = quietAt (5 + q) ∧
      cycleStates (17 + 3 * q) = { quietAt (5 + q) with out := doneOut } ∧
      cycleStates (18 + 3 * q) = quietAt (5 + q) := by
  have next (n : Nat) : cycleStates (n + 1) = after (cycleMoves n) (cycleStates n) := rfl
  have go (q : Nat) (h : cycleStates (16 + 3 * q) = quietAt (5 + q)) :
      cycleStates (17 + 3 * q) = { quietAt (5 + q) with out := doneOut } ∧ cycleStates (18 + 3 * q) = quietAt (5 + q) := by
    have h1 : cycleStates (17 + 3 * q) = { quietAt (5 + q) with out := doneOut } := by
      rw [show 17 + 3 * q = (16 + 3 * q) + 1 by omega, next, cycleMoves_tx, h, after_of (quiet_tx _)]
    refine ⟨h1, ?_⟩
    rw [show 18 + 3 * q = (17 + 3 * q) + 1 by omega, next, cycleMoves_rx, h1, after_of (quiet_rx _ _)]
  have h : cycleStates (16 + 3 * q) = quietAt (5 + q) := by
    induction q with
    | zero => decide +kernel
    | succ q ih =>
      rw [show 16 + 3 * (q + 1) = (18 + 3 * q) + 1 by omega, next, cycleMoves_tick, (go q ih).2, after_of (quiet_tick _)]
      rfl
  exact ⟨h, go q h⟩

/-- A property of every state of the run: the first sixteen, and the three of each later cycle. -/
theorem cycle_all {P : Nat → Prop} (first : ∀ n < 16, P n)
    (later : ∀ q, P (16 + 3 * q) ∧ P (17 + 3 * q) ∧ P (18 + 3 * q)) (n : Nat) : P n := by
  by_cases h : n < 16
  · exact first n h
  · obtain ⟨q, rfl | rfl | rfl⟩ : ∃ q, n = 16 + 3 * q ∨ n = 17 + 3 * q ∨ n = 18 + 3 * q := ⟨(n - 16) / 3, by omega⟩
    · exact (later q).1
    · exact (later q).2.1
    · exact (later q).2.2

theorem perform_after {m : Move} {s : State} (h : (seen id (perform m s)).isSome = true) : perform m s = .next (after m s) := by
  unfold after
  cases e : perform m s <;> simp_all [seen]

theorem cycle_is_run : IsInfiniteRun cycleMoves cycleStates := by
  intro n
  refine perform_after ?_
  refine cycle_all (P := fun n => (seen id (perform (cycleMoves n) (cycleStates n))).isSome = true) (by decide +kernel)
    (fun q => ?_) n
  obtain ⟨h, h1, h2⟩ := cycleStates_quiet q
  rw [h, h1, h2, cycleMoves_tx, cycleMoves_rx, cycleMoves_tick, quiet_tx, quiet_rx, quiet_tick]
  exact ⟨rfl, rfl, rfl⟩

theorem cycle_is_fair : WeaklyFair cycleMoves :=
  ⟨fun n => ⟨17 + 3 * n, by omega, cycleMoves_rx n⟩, fun n => ⟨16 + 3 * n, by omega, cycleMoves_tx n⟩,
    fun n => ⟨18 + 3 * n, by omega, cycleMoves_tick n⟩⟩

theorem test_witness_FairnessEndsEveryWait :
    IsInfiniteRun cycleMoves cycleStates ∧ WeaklyFair cycleMoves ∧ (cycleStates 11).tx.phase = .waitEntry :=
  ⟨cycle_is_run, cycle_is_fair, by decide +kernel⟩

theorem test_witness_FairTransmissionCompletes :
    IsInfiniteRun cycleMoves cycleStates ∧ WeaklyFair cycleMoves ∧ Memory.wf (cycleStates 0) ∧
      ([] : List Byte).length ≤ (cycleStates 0).params.cap ∧
      ((cycleStates 0).tx.phase = .idle ∨ (cycleStates 0).tx.phase = .done) ∧ (cycleStates 0).rx.phase = .awaitStart ∧
      (cycleStates 0).fwd.avail = false ∧ (cycleStates 0).rev.avail = false ∧ cycleMoves 0 = Program.txStart [] ∧
      (∀ n, 1 ≤ n → cycleMoves n = .stepRx ∨ cycleMoves n = .stepTx ∨ cycleMoves n = Program.tick) ∧
      ∀ n, (cycleStates n).fwd.overrun = false := by
  refine ⟨cycle_is_run, cycle_is_fair, by decide, by decide, by decide, rfl, rfl, rfl, rfl, fun n hn => ?_, ?_⟩
  · obtain ⟨k, rfl⟩ : ∃ k, n = k + 1 := ⟨n - 1, by omega⟩
    rw [cycleMoves]
    split
    · simp
    · split <;> simp
  · refine cycle_all (by decide +kernel) fun q => ?_
    obtain ⟨h, h1, h2⟩ := cycleStates_quiet q
    rw [h, h1, h2]
    exact ⟨rfl, rfl, rfl⟩

end Sys2Proof.Tests
end

namespace Sys2Proof.Machine

/-! ## Proofs: the state and its bookkeeping (spec/10_state.md)

The inversion lemmas of `Laws/Exec.lean` are gathered by group of operations: a receiver step, a sender step, a command.
What any operation does to the clock, the fault register, the slots and the output signals is read off the groups. -/

section Groups

variable {i : Instr} {s t : State}

/-! ### The groups exclude each other -/

theorem emission_of_wait (hi : i.isWait = true) : i.isEmission = false := by
  cases i <;> cases hi <;> rfl

theorem emission_of_no_sender (hi : i.isSender = false) : i.isEmission = false := by
  simp only [Instr.isSender, Bool.or_eq_false_iff] at hi
  exact hi.1.1.1

theorem command_puts_of_agent (hi : i.isReceiver = true ∨ i.isSender = true) : i.isPutFwd = false ∧ i.isPutRev = false := by
  cases i <;> simp [Instr.isReceiver, Instr.isSender, Instr.isEmission, Instr.isWait, Instr.isPutFwd, Instr.isPutRev] at hi ⊢

theorem emission_of_receiver (hi : i.isReceiver = true) : i.isEmission = false := by
  cases i <;> cases hi <;> rfl

/-! ### A receiver step -/

/-- What a receiver step that takes the byte in FWD, leaves the receiver's registers at `rx` and records `ev` makes of a
state (R110). -/
def taken (rx : Receiver) (ev : Event) (s : State) : State :=
  { s with
    fwd := { s.fwd with avail := false }
    rx := rx
    trace := s.trace ++ [ev]
    out := { StepOut.zero with fwdTake := true, rxStatus := Status.progressed.code } }

/-- What the accept adds to such a step (R120): the result `rbuf` of length `rlen`, and the ACK in REV. -/
def acked (rbuf : Buffer) (rlen : Byte) (s : State) : State :=
  { s with
    rbuf := rbuf
    rlen := rlen
    rev := slotPut s.rev wireAck
    out := { s.out with revPut := true, revPutData := wireAck } }

/-- A receiver step finds no byte, takes one, or takes one and accepts. -/
theorem exec_receiver_next (hi : i.isReceiver = true) (h : exec i s = .next t) :
    t = { s with out := { StepOut.zero with rxStatus := Status.waiting.code } } ∨
    (∃ rx ev, t = taken rx ev s) ∨
    (∃ rx ev rbuf rlen, t = acked rbuf rlen (taken rx ev s)) := by
  cases i <;> cases hi
  case rxNobyte => exact .inl (exec_rxNobyte_next h)
  case rxAwaitStart =>
    obtain ⟨-, e⟩ | ⟨-, e⟩ := exec_rxAwaitStart_next h
    · exact .inr (.inl ⟨_, _, e⟩)
    · exact .inr (.inl ⟨_, _, e⟩)
  case rxReadLength => exact .inr (.inl ⟨_, _, exec_rxReadLength_next h⟩)
  case rxReadPayload => exact .inr (.inl ⟨_, _, (exec_rxReadPayload_next h).2⟩)
  case rxVerifyChecksum =>
    obtain ⟨-, e⟩ | ⟨-, e⟩ := exec_rxVerifyChecksum_next h
    · exact .inr (.inl ⟨_, _, e⟩)
    · exact .inr (.inl ⟨_, _, e⟩)
  case rxAwaitEnd =>
    obtain ⟨-, -, -, e⟩ | ⟨-, e⟩ := exec_rxAwaitEnd_next h
    · exact .inr (.inr ⟨_, _, _, _, e⟩)
    · exact .inr (.inl ⟨_, _, e⟩)

/-! ### A sender step -/

/-- An emitting step puts one byte (R143 to R147). -/
theorem exec_emission_next (hi : i.isEmission = true) (h : exec i s = .next t) : ∃ b tx, t = emitted b tx s := by
  cases i <;> cases hi
  case txEmitStart => exact ⟨_, _, exec_txEmitStart_next h⟩
  case txEmitLength => exact ⟨_, _, exec_txEmitLength_next h⟩
  case txEmitPayload =>
    obtain ⟨_, e⟩ := exec_txEmitPayload_next h
    exact ⟨_, _, e⟩
  case txEmitChecksum => exact ⟨_, _, exec_txEmitChecksum_next h⟩
  case txEmitEnd => exact ⟨_, _, exec_txEmitEnd_next h⟩

/-- A wait check ends in one of its three ways (R150), each of the form `waited`. -/
theorem waitCheck_waited (d : Nat) (s : State) : ∃ tx evs st, waitCheck d s = waited tx evs st s := by
  obtain ⟨-, -, e⟩ | ⟨-, -, e⟩ | ⟨-, -, e⟩ := waitCheck_eq d s
  · exact ⟨_, _, _, e⟩
  · exact ⟨_, _, _, e⟩
  · exact ⟨_, _, _, e⟩

/-- A wait step polls REV (R148, R149). -/
theorem exec_wait_next (hi : i.isWait = true) (h : exec i s = .next t) :
    ∃ tx evs st, t = waited tx evs st { s with out := StepOut.zero } := by
  cases i <;> cases hi
  case txWaitEntry =>
    obtain ⟨-, rfl⟩ := exec_txWaitEntry_next h
    exact waitCheck_waited _ _
  case txWait =>
    obtain rfl := exec_txWait_next h
    exact waitCheck_waited _ _

/-- A sender step emits, waits for the ACK, or reports that there is nothing to do. -/
theorem exec_sender_next (hi : i.isSender = true) (h : exec i s = .next t) :
    (i.isEmission = true ∧ ∃ b tx, t = emitted b tx s) ∨
    (i.isWait = true ∧ ∃ tx evs st, t = waited tx evs st { s with out := StepOut.zero }) ∨
    ((i = .txIdle ∨ i = .txDone) ∧ ∃ st : Status, t = { s with out := { StepOut.zero with txStatus := st.code } }) := by
  simp only [Instr.isSender, Bool.or_eq_true, beq_iff_eq] at hi
  obtain ((he | hw) | rfl) | rfl := hi
  · exact .inl ⟨he, exec_emission_next he h⟩
  · exact .inr (.inl ⟨hw, exec_wait_next hw h⟩)
  · exact .inr (.inr ⟨.inl rfl, _, exec_txIdle_next h⟩)
  · exact .inr (.inr ⟨.inr rfl, _, exec_txDone_next h⟩)

/-! ### A command -/

/-- The operations that are no step of an agent are the seven commands of R90. -/
theorem command_of_no_agent (hr : i.isReceiver = false) (hs : i.isSender = false) :
    i = .reset ∨ (∃ len p, i = .txStart len p) ∨ i = .tick ∨
      (∃ b, i = .envPutFwd b) ∨ i = .envTakeFwd ∨ (∃ b, i = .envPutRev b) ∨ i = .envTakeRev := by
  cases i <;> simp [Instr.isReceiver, Instr.isSender, Instr.isEmission, Instr.isWait] at hr hs ⊢

/-- What a command does to the signals, the clock and the overrun flags. -/
theorem exec_command_next (hr : i.isReceiver = false) (hs : i.isSender = false) (h : exec i s = .next t) :
    t.out = StepOut.zero ∧
    t.clock = (if i = .tick then s.clock + 1 else s.clock) ∧
    t.fwd.overrun = (s.fwd.overrun || (s.fwd.avail && i.isPutFwd)) ∧
    t.rev.overrun = (s.rev.overrun || (s.rev.avail && i.isPutRev)) := by
  obtain rfl | ⟨len, p, rfl⟩ | rfl | ⟨b, rfl⟩ | rfl | ⟨b, rfl⟩ | rfl := command_of_no_agent hr hs
  · simp [exec_reset_next h, Instr.isPutFwd, Instr.isPutRev]
  · obtain ⟨-, rfl⟩ | ⟨-, -, rfl⟩ | ⟨-, -, -, -, rfl⟩ := exec_txStart_next h <;>
      simp [Instr.isPutFwd, Instr.isPutRev]
  · simp [(exec_tick_next h).2, Instr.isPutFwd, Instr.isPutRev]
  · simp [exec_envPutFwd_next h, Instr.isPutFwd, Instr.isPutRev]
  · simp [exec_envTakeFwd_next h, Instr.isPutFwd, Instr.isPutRev]
  · simp [exec_envPutRev_next h, Instr.isPutFwd, Instr.isPutRev]
  · simp [exec_envTakeRev_next h, Instr.isPutFwd, Instr.isPutRev]

/-- A command other than TX_START leaves the fault register. -/
theorem exec_command_fault (hr : i.isReceiver = false) (hs : i.isSender = false) (hi : i.isStart = false)
    (h : exec i s = .next t) : t.fault = s.fault := by
  obtain rfl | ⟨len, p, rfl⟩ | rfl | ⟨b, rfl⟩ | rfl | ⟨b, rfl⟩ | rfl := command_of_no_agent hr hs
  · simp [exec_reset_next h]
  · cases hi
  · rw [(exec_tick_next h).2]
  · rw [exec_envPutFwd_next h]
  · rw [exec_envTakeFwd_next h]
  · rw [exec_envPutRev_next h]
  · rw [exec_envTakeRev_next h]

/-! ### What a step of an agent leaves, and what it drives -/

/-- A receiver step: the clock, the fault register and FWD's overrun flag stay, REV's is set by the ACK only, and of the
signals it drives `fwd_take` and `rev_put` at most. -/
theorem exec_receiver_frame (hi : i.isReceiver = true) (h : exec i s = .next t) :
    t.clock = s.clock ∧ t.fault = s.fault ∧ t.fwd.overrun = s.fwd.overrun ∧
    t.rev.overrun = (s.rev.overrun || (s.rev.avail && t.out.revPut)) ∧
    t.out.fwdPut = false ∧ t.out.revTake = false := by
  obtain rfl | ⟨rx, ev, rfl⟩ | ⟨rx, ev, rbuf, rlen, rfl⟩ := exec_receiver_next hi h
  · simp [StepOut.zero]
  · simp [taken, StepOut.zero]
  · simp [acked, taken, StepOut.zero]

/-- A sender step: the clock, the fault register and REV's overrun flag stay, FWD's is set by an emission only, and of the
signals it drives `fwd_put` and `rev_take` at most. -/
theorem exec_sender_frame (hi : i.isSender = true) (h : exec i s = .next t) :
    t.clock = s.clock ∧ t.fault = s.fault ∧ t.rev.overrun = s.rev.overrun ∧
    t.fwd.overrun = (s.fwd.overrun || (s.fwd.avail && i.isEmission)) ∧
    t.out.fwdTake = false ∧ t.out.revPut = false := by
  obtain ⟨he, b, tx, rfl⟩ | ⟨hw, tx, evs, st, rfl⟩ | ⟨hd, st, rfl⟩ := exec_sender_next hi h
  · simp [emitted, StepOut.zero, he]
  · simp [waited, StepOut.zero, emission_of_wait hw]
  · obtain rfl | rfl := hd <;> simp [StepOut.zero, Instr.isEmission]

end Groups

/-! ## The clock, the slots and the signals -/

/-- Settles O40: a case split on the group of the operation; TICK is a command. -/
theorem onlyTickMovesTheClock : Obligations.OnlyTickMovesTheClock := by
  refine ⟨fun s => rfl, fun i s t h => ?_, fun p => rfl⟩
  cases hr : i.isReceiver
  · cases hs : i.isSender
    · exact (exec_command_next hr hs h).2.1
    · have hi : i ≠ .tick := by rintro rfl; cases hs
      rw [if_neg hi, (exec_sender_frame hs h).1]
  · have hi : i ≠ .tick := by rintro rfl; cases hr
    rw [if_neg hi, (exec_receiver_frame hr h).1]

/-- Settles O44: a case split on the group of the operation. -/
theorem overrunIsSetByAPutIntoAFullSlotOnly : Obligations.OverrunIsSetByAPutIntoAFullSlotOnly := by
  intro i s t h
  cases hr : i.isReceiver
  · cases hs : i.isSender
    · obtain ⟨hout, -, hfwd, hrev⟩ := exec_command_next hr hs h
      simp [hout, hfwd, hrev, StepOut.zero, emission_of_no_sender hs]
    · obtain ⟨-, -, hrev, hfwd, -, hput⟩ := exec_sender_frame hs h
      simp [hrev, hfwd, hput, command_puts_of_agent (.inr hs)]
  · obtain ⟨-, -, hfwd, hrev, -, -⟩ := exec_receiver_frame hr h
    simp [hfwd, hrev, emission_of_receiver hr, command_puts_of_agent (.inl hr)]

/-- Settles O45: a receiver step drives neither `fwd_put` nor `rev_take`, a sender step neither `fwd_take` nor `rev_put`,
and a command drives nothing. -/
theorem signalsAreDrivenByTheirAgent : Obligations.SignalsAreDrivenByTheirAgent := by
  intro i s t h
  cases hr : i.isReceiver
  · cases hs : i.isSender
    · simp [(exec_command_next hr hs h).1, StepOut.zero]
    · obtain ⟨-, -, -, -, htake, hput⟩ := exec_sender_frame hs h
      simp [htake, hput]
  · obtain ⟨-, -, -, -, hput, htake⟩ := exec_receiver_frame hr h
    simp [hput, htake]

/-! ## Power-on -/

/-- Settles O29: the draws are the buffers; the parameters of `State.reset` are `Params.default`. -/
theorem powerOnIsTheResetStateInAnEmptyEnvironment : Obligations.PowerOnIsTheResetStateInAnEmptyEnvironment :=
  ⟨fun p => ⟨drawBytes 0 p.cap, drawBytes p.cap p.cap, _, _, _, _, _, drawBytes_length _ _, drawBytes_length _ _, rfl⟩,
    Params.default, rfl, rfl⟩

/-! ## Faults -/

section Faults

variable {i : Instr} {s t : State} {f : Fault}

/-! ### Decoding a TX_START -/

/-- No row of R89 is TX_START's. -/
theorem decodeSelector_isStart {w : BitVec 6} (h : decodeSelector w = .ok i) : i.isStart = false := by
  have rows : ∀ r ∈ selectorRows, r.instr.isStart = false := by decide
  unfold decodeSelector at h
  split at h
  · next r hr =>
    cases h
    exact rows r (List.mem_of_find?_eq_some hr)
  · cases h

theorem noOperands_ok {code : BitVec 4} {ops : List Byte} {j : Instr} :
    noOperands code j ops = .ok i ↔ ops = [] ∧ j = i := by
  cases ops <;> simp [noOperands]

theorem oneByte_ok {code : BitVec 4} {f : Byte → Instr} {ops : List Byte} :
    oneByte code f ops = .ok i ↔ ∃ b, ops = [b] ∧ f b = i := by
  rcases ops with - | ⟨b, - | ⟨c, ops⟩⟩ <;> simp [oneByte]

theorem startOperands_ok {code : BitVec 4} {ops : List Byte} :
    startOperands code ops = .ok i ↔ ∃ len p, ops = len :: p ∧ p.length = len.toNat ∧ .txStart len p = i := by
  rcases ops with - | ⟨len, p⟩
  · simp [startOperands]
  · by_cases hl : p.length = len.toNat <;> simp [startOperands, hl]

/-- Only the command 0x1 decodes to TX_START, and its operand bytes are the length and the payload (R90, R93). -/
theorem decode_txStart {e : Encoded} {len : Byte} {p : List Byte} :
    decode e = .ok (.txStart len p) ↔ e = .command 0x1 (len :: p) ∧ p.length = len.toNat := by
  constructor
  · intro h
    cases e with
    | selector w => cases decodeSelector_isStart h
    | command code ops =>
      simp only [decode, decodeCommand] at h
      split at h <;> simp [noOperands_ok, oneByte_ok, startOperands_ok] at h
      next hc =>
        obtain rfl : code = 0x1 := BitVec.eq_of_toNat_eq hc
        obtain ⟨rfl, hl⟩ := h
        exact ⟨rfl, hl⟩
  · rintro ⟨rfl, hl⟩
    exact startOperands_ok.mpr ⟨len, p, rfl, hl, rfl⟩

theorem encodedMove_command {m : Move} {code : BitVec 4} {ops : List Byte} :
    encodedMove s m = .command code ops ↔ m = .command code ops := by
  cases m <;> simp [encodedMove]

/-! ### Which operation answers or raises a fault -/

theorem not_safe_of_fault (h : s.fault = some f) : ¬ Safe s := by
  simp [Safe, h]

theorem exec_of_fault (h : s.fault = some f) (i : Instr) : exec i s = .fault f := by
  obtain ⟨body, e⟩ := exec_eq_move i s
  rw [e, move_of_fault h]

/-- A move whose body answers no fault answers the one that is set. -/
theorem move_fault {body : State → Result} (hb : ∀ u g, body u ≠ .fault g) (h : move s body = .fault f) :
    s.fault = some f := by
  unfold move at h
  split at h
  · next g hg =>
    cases h
    exact hg
  · split at h
    · exact absurd h (hb _ _)
    · cases h

/-- No operation answers a fault but the one that is set: TX_START answers a next state whose fault register is written. -/
theorem exec_fault (h : exec i s = .fault f) : s.fault = some f := by
  cases i <;>
    simp only [exec, execRxNobyte, execRxAwaitStart, execRxReadLength, execRxReadPayload, execRxVerifyChecksum,
      execRxAwaitEnd, execTxIdle, execTxEmitStart, execTxEmitLength, execTxEmitPayload, execTxEmitChecksum,
      execTxEmitEnd, execTxWaitEntry, execTxWait, execTxDone, execReset, execTxStart, execTick, execEnvPutFwd,
      execEnvTakeFwd, execEnvPutRev, execEnvTakeRev] at h <;>
    refine move_fault (fun u g => ?_) h
  case rxReadPayload => split <;> simp
  case rxAwaitEnd =>
    split
    · split <;> simp
    · simp
  case txEmitPayload => split <;> simp
  case txWaitEntry => split <;> simp
  case tick => split <;> simp
  case txStart =>
    split_ifs
    · simp
    · simp
    · split <;> simp
    · simp
  all_goals nofun

/-- Every operation but TX_START leaves the fault register. -/
theorem exec_next_fault (hi : i.isStart = false) (h : exec i s = .next t) : t.fault = s.fault := by
  cases hr : i.isReceiver
  · cases hs : i.isSender
    · exact exec_command_fault hr hs hi h
    · exact (exec_sender_frame hs h).2.1
  · exact (exec_receiver_frame hr h).2.1

theorem mayStart_eq_true {p : TxPhase} : mayStart p = true ↔ p = .idle ∨ p = .done := by
  simp [mayStart]

/-- R201: the host misuses TX_START in the state `s` with the length `len`, and the fault that records it. -/
def Misused (s : State) (len : Byte) (f : Fault) : Prop :=
  (s.tx.phase ≠ .idle ∧ s.tx.phase ≠ .done ∧ f = .startBusy s.tx.phase) ∨
    ((s.tx.phase = .idle ∨ s.tx.phase = .done) ∧ s.params.cap < len.toNat ∧ f = .startLen len)

/-- A misused TX_START writes the fault register. -/
theorem exec_txStart_misused {len : Byte} {p : List Byte} (h : Enabled s) (hm : Misused s len f) :
    exec (.txStart len p) s = .next { s with fault := some f, out := StepOut.zero } := by
  simp only [exec, execTxStart, move_of_enabled h]
  obtain ⟨hi, hd, rfl⟩ | ⟨hp, hc, rfl⟩ := hm
  · simp [mayStart, hi, hd, raiseFault]
  · simp [mayStart_eq_true.mpr hp, hc, raiseFault]

/-- TX_START raises a fault only when it is misused. -/
theorem misused_of_exec_txStart {len : Byte} {p : List Byte} (hs : Safe s) (h : exec (.txStart len p) s = .next t)
    (hf : t.fault = some f) : Misused s len f := by
  obtain ⟨hm, rfl⟩ | ⟨hm, hc, rfl⟩ | ⟨-, -, -, -, rfl⟩ := exec_txStart_next h
  · cases hf
    simp only [mayStart, Bool.or_eq_false_iff, beq_eq_false_iff_ne] at hm
    exact .inl ⟨hm.1, hm.2, rfl⟩
  · cases hf
    exact .inr ⟨mayStart_eq_true.mp hm, hc, rfl⟩
  · exact absurd hs (not_safe_of_fault hf)

/-! ### Which step stops with a fault -/

theorem step_of_fault (h : s.fault = some f) : step s = .fault f := by
  simp [step, h]

theorem perform_of_decode {m : Move} (h : decode (encodedMove s m) = .ok i) : perform m s = stopOnFault (exec i s) := by
  simp [perform, fetch_ok.mpr h]

/-- A move stops with a fault when the operation it decodes to raises it, or when it was set before. -/
theorem perform_fault {m : Move} (h : perform m s = .fault f) :
    ∃ i, decode (encodedMove s m) = .ok i ∧ (s.fault = some f ∨ ∃ t, exec i s = .next t ∧ t.fault = some f) := by
  unfold perform at h
  split at h
  · next i hi => exact ⟨i, fetch_ok.mp hi, (stopOnFault_fault.mp h).imp_left exec_fault⟩
  · cases h

/-- The step of a misused TX_START stops with its fault. -/
theorem step_misused {len : Byte} {p : List Byte} {rest : List Move} (h : Enabled s) (hl : p.length = len.toNat)
    (hs : s.sched = .command 0x1 (len :: p) :: rest) (hm : Misused s len f) : step s = .fault f := by
  have hd : decode (encodedMove { s with sched := rest } (.command 0x1 (len :: p))) = .ok (.txStart len p) :=
    decode_txStart.mpr ⟨rfl, hl⟩
  rw [step_cons h.1 hs, perform_of_decode hd,
    exec_txStart_misused (s := { s with sched := rest }) h hm]
  rfl

/-- From a state without a fault no other step stops with one. -/
theorem misused_of_step_fault (hs : Safe s) (h : step s = .fault f) :
    ∃ (len : Byte) (p : List Byte) (rest : List Move),
      s.sched = .command 0x1 (len :: p) :: rest ∧ Misused s len f := by
  cases hq : s.sched with
  | nil => simp [step, show s.fault = none from hs, hq] at h
  | cons m rest =>
    rw [step_cons hs hq] at h
    obtain ⟨i, hd, hset | ⟨t, hi, hf⟩⟩ := perform_fault h
    · exact absurd hs (not_safe_of_fault hset)
    · cases hstart : i.isStart
      · have hkept : t.fault = s.fault := exec_next_fault (s := { s with sched := rest }) hstart hi
        exact absurd hs (not_safe_of_fault (hkept.symm.trans hf))
      · obtain ⟨len, p, rfl⟩ : ∃ len p, i = .txStart len p := by
          cases i <;> cases hstart
          exact ⟨_, _, rfl⟩
        obtain rfl := encodedMove_command.mp (decode_txStart.mp hd).1
        exact ⟨len, p, rest, rfl, misused_of_exec_txStart (s := { s with sched := rest }) hs hi hf⟩

/-! ### Runs -/

theorem step_next_safe (h : step s = .next t) : Safe t := by
  obtain ⟨hf, -, rfl⟩ | ⟨_, _, _, -, -, -, -, hf⟩ := step_next h
  · exact hf
  · exact hf

theorem run_of_step_fault (h : step s = .fault f) (n : Nat) : run (n + 1) s = .fault f := by
  have hc : core.step s = .fault f := h
  simp only [run, Host.Core.run, hc]
  rfl

theorem run_of_step_refused {r : Refusal} (h : step s = .refused r) (n : Nat) : run (n + 1) s = .refused r := by
  have hc : core.step s = .refused r := h
  simp only [run, Host.Core.run, hc]
  rfl

/-- A run from a state without a fault that has a last state ends without one (R201). -/
theorem run_safe {n : Nat} (hs : Safe s) (h : run n s = .next t) : Safe t := by
  induction n generalizing s with
  | zero =>
    cases h
    exact hs
  | succ n ih =>
    cases hstep : step s with
    | next u =>
      rw [run_next hstep] at h
      exact ih (step_next_safe hstep) h
    | fault f => cases (run_of_step_fault hstep n).symm.trans h
    | refused r => cases (run_of_step_refused hstep n).symm.trans h

/-- A run that meets a fault stays stopped with it, however many moves are asked of it. -/
theorem run_fault_add {n : Nat} (h : run n s = .fault f) (k : Nat) : run (n + k) s = .fault f := by
  induction n generalizing s with
  | zero => cases h
  | succ n ih =>
    rw [Nat.add_right_comm]
    cases hstep : step s with
    | next u =>
      rw [run_next hstep] at h ⊢
      exact ih h
    | fault g =>
      rw [run_of_step_fault hstep] at h ⊢
      exact h
    | refused r => cases (run_of_step_refused hstep n).symm.trans h

/-- A state with a fault is the first of no run with a final state. -/
theorem not_finalState_of_fault (hf : s.fault = some f) (n : Nat) : ¬ FinalState n s t := by
  rintro ⟨h, ht⟩
  cases n with
  | zero =>
    cases h
    exact not_safe_of_fault hf ht
  | succ n => cases (run_of_step_fault (step_of_fault hf) n).symm.trans h

end Faults

/-- Settles O27: what a fault stops, where one arises, and what that means for runs. -/
theorem faultStopsEveryMove : Obligations.FaultStopsEveryMove := by
  refine ⟨fun p => rfl, rfl, fun s f hf => ⟨step_of_fault hf, exec_of_fault hf⟩, fun p => rfl, fun len => rfl,
    fun s len p rest h hl hs => ⟨fun hp => ?_, fun hp hc => ?_⟩,
    fun s f hs h => misused_of_step_fault hs h, fun s t n hs h => run_safe hs h, ?_⟩
  · exact step_misused h hl hs (.inl ⟨hp.1, hp.2, rfl⟩)
  · exact step_misused h hl hs (.inr ⟨hp, hc, rfl⟩)
  · rintro s f n k observation hstop ⟨t, hfinal, -⟩
    obtain hf | hrun := hstop
    · exact not_finalState_of_fault hf _ hfinal
    · cases (run_fault_add hrun k).symm.trans hfinal.1

end Sys2Proof.Machine

namespace Sys2Proof.Machine

/-! ## Proofs: the encodings (spec/30_encoding.md)

The selector that the state gives an agent decodes to the handler of the agent's phase; what the agent's step reports is
then read off the handler's inversion lemma. -/

/-! ### Decoding a selector (R89) -/

section Selectors

variable {w : BitVec 6}

/-- A selector matches at most one row of R89. -/
theorem selectorRow_unique {a b : SelectorRow} (ha : a ∈ selectorRows) (hb : b ∈ selectorRows)
    (hwa : rowMatches w a = true) (hwb : rowMatches w b = true) : a = b := by
  by_contra hab
  have hsymm : Std.Symm fun a b : SelectorRow => ∀ w : BitVec 6, ¬ (rowMatches w a = true ∧ rowMatches w b = true) :=
    ⟨fun _ _ h w hw => h w hw.symm⟩
  exact selectorRows_disjoint.forall ha hb hab w ⟨hwa, hwb⟩

/-- Since a selector matches at most one row, the order in which the decoder tries the rows does not matter. -/
theorem decodeSelector_ok {i : Instr} :
    decodeSelector w = .ok i ↔ ∃ r ∈ selectorRows, rowMatches w r = true ∧ r.instr = i := by
  unfold decodeSelector
  split
  · next r hr =>
    have hmem := List.mem_of_find?_eq_some hr
    have hmatch := List.find?_some hr
    constructor
    · rintro ⟨⟩
      exact ⟨r, hmem, hmatch, rfl⟩
    · rintro ⟨q, hq, hwq, rfl⟩
      rw [selectorRow_unique hmem hq hmatch hwq]
  · next hnone =>
    simp only [reduceCtorEq, false_iff, not_exists, not_and]
    intro r hr hw
    exact absurd hw (List.find?_eq_none.mp hnone r hr)

/-- A selector is refused, by its own name, exactly when no row matches it (R91). -/
theorem decodeSelector_reserved :
    decodeSelector w = .error (.reservedSelector w) ↔ ∀ r ∈ selectorRows, ¬ rowMatches w r = true := by
  rw [← List.find?_eq_none]
  unfold decodeSelector
  split <;> simp_all

/-- No row of R89 matches the receiver with a byte and a phase code above 4, nor the sender with one above 8. -/
theorem no_selectorRow_matches : (∀ r ∈ selectorRows, ¬ rowMatches w r = true) ↔
    (w &&& 0x30 = 0x10 ∧ 5 ≤ (w &&& 0x0F).toNat) ∨ (w &&& 0x20 = 0x20 ∧ 9 ≤ (w &&& 0x0F).toNat) := by
  revert w
  decide

end Selectors

/-- Settles O1: a selector decodes to the operation of the one row it matches. -/
theorem selectorMatchesExactlyItsRow : Obligations.SelectorMatchesExactlyItsRow := by
  intro w
  rw [decodeSelector_reserved, no_selectorRow_matches]
  simp [decodeSelector_ok, selectorRows, receiverRows, senderRows, rowMatches]

/-! ### Decoding a command (R90) -/

/-- R91: a code above 6 is refused by name, whatever follows it. -/
theorem decodeCommand_reserved {code : BitVec 4} (h : 7 ≤ code.toNat) (ops : List Byte) :
    decodeCommand code ops = .error (.reservedCommand code) := by
  obtain ⟨k, hk⟩ := Nat.exists_eq_add_of_le' h
  simp only [decodeCommand, hk]

/-- Settles O2: each row of the table by evaluation, TX_START by the length of its payload. -/
theorem commandCodeNamesItsOperation : Obligations.CommandCodeNamesItsOperation :=
  ⟨rfl, fun len p hl => startOperands_ok.mpr ⟨len, p, rfl, hl, rfl⟩, rfl, fun _ => rfl, rfl, fun _ => rfl, rfl,
    fun _ ops h => decodeCommand_reserved h ops⟩

/-! ### Phase codes (R85, R86) -/

@[simp] theorem rxPhaseOfCode_code (p : RxPhase) : rxPhaseOfCode p.code = some p := by
  cases p <;> rfl

@[simp] theorem txPhaseOfCode_code (p : TxPhase) : txPhaseOfCode p.code = some p := by
  cases p <;> rfl

/-- R91: the codes 5 to 7 name no receiver phase. -/
theorem rxPhaseOfCode_eq_none {c : BitVec 3} : rxPhaseOfCode c = none ↔ 5 ≤ c.toNat := by
  revert c
  decide

/-- R91: the codes 9 to 15 name no sender phase. -/
theorem txPhaseOfCode_eq_none {c : BitVec 4} : txPhaseOfCode c = none ↔ 9 ≤ c.toNat := by
  revert c
  decide

/-- Settles O7: the codes by evaluation, and what they name by the four lemmas above. -/
theorem phaseCodesAreThoseOfTheTables : Obligations.PhaseCodesAreThoseOfTheTables :=
  ⟨rfl, rfl, fun _ => rxPhaseOfCode_eq_none, rxPhaseOfCode_code, fun _ => txPhaseOfCode_eq_none, txPhaseOfCode_code⟩

/-! ### The selector of a state (R88) -/

theorem rxSelector_fields (s : State) :
    (rxSelector s).getLsbD 5 = false ∧ (rxSelector s).getLsbD 4 = s.fwd.avail ∧
      (rxSelector s).extractLsb' 0 4 = s.rx.phase.code.setWidth 4 := by
  unfold rxSelector
  cases s.fwd.avail <;> cases s.rx.phase <;> exact ⟨rfl, rfl, rfl⟩

theorem txSelector_fields (s : State) :
    (txSelector s).getLsbD 5 = true ∧ (txSelector s).getLsbD 4 = s.rev.avail ∧
      (txSelector s).extractLsb' 0 4 = s.tx.phase.code := by
  unfold txSelector
  cases s.rev.avail <;> cases s.tx.phase <;> exact ⟨rfl, rfl, rfl⟩

/-- Settles O8: the fields are read off for each value of the slot's flag and of the phase. -/
theorem selectorIsComputedFromTheState : Obligations.SelectorIsComputedFromTheState := by
  intro s
  obtain ⟨hagent, havail, hphase⟩ := rxSelector_fields s
  exact ⟨hagent, havail, hphase, txSelector_fields s⟩

/-- R89, R110: the receiver's handler of a phase. -/
def RxPhase.handler : RxPhase → Instr
  | .awaitStart => .rxAwaitStart
  | .readLength => .rxReadLength
  | .readPayload => .rxReadPayload
  | .verifyChecksum => .rxVerifyChecksum
  | .awaitEnd => .rxAwaitEnd

/-- R89, R142: the sender's handler of a phase. -/
def TxPhase.handler : TxPhase → Instr
  | .idle => .txIdle
  | .emitStart => .txEmitStart
  | .emitLength => .txEmitLength
  | .emitPayload => .txEmitPayload
  | .emitChecksum => .txEmitChecksum
  | .emitEnd => .txEmitEnd
  | .waitEntry => .txWaitEntry
  | .wait => .txWait
  | .done => .txDone

/-- The receiver's selector decodes to the handler of its phase when FWD holds a byte, else to RX.NOBYTE (R110). -/
theorem decodeSelector_rxSelector (s : State) :
    decodeSelector (rxSelector s) = .ok (if s.fwd.avail then s.rx.phase.handler else .rxNobyte) := by
  unfold rxSelector
  cases s.fwd.avail <;> cases s.rx.phase <;> rfl

/-- The sender's selector decodes to the handler of its phase, whatever REV holds (R142). -/
theorem decodeSelector_txSelector (s : State) : decodeSelector (txSelector s) = .ok s.tx.phase.handler := by
  unfold txSelector
  cases s.rev.avail <;> cases s.tx.phase <;> rfl

/-! ### What a step of an agent reports (R87) -/

section Reports

variable {s t : State} {rest : List Move}

/-- A receiver step that answers a next state executed what its selector decodes to (R110). -/
theorem step_stepRx_next (hf : s.fault = none) (hs : s.sched = .stepRx :: rest) (h : step s = .next t) :
    exec (if s.fwd.avail then s.rx.phase.handler else .rxNobyte) { s with sched := rest } = .next t := by
  rw [step_cons hf hs] at h
  obtain ⟨i, hd, hi, -⟩ := perform_next h
  cases (decodeSelector_rxSelector { s with sched := rest }).symm.trans hd
  exact hi

/-- A sender step that answers a next state executed the handler of its phase (R142). -/
theorem step_stepTx_next (hf : s.fault = none) (hs : s.sched = .stepTx :: rest) (h : step s = .next t) :
    exec s.tx.phase.handler { s with sched := rest } = .next t := by
  rw [step_cons hf hs] at h
  obtain ⟨i, hd, hi, -⟩ := perform_next h
  cases (decodeSelector_txSelector { s with sched := rest }).symm.trans hd
  exact hi

/-- The five handlers of the receiver take the byte and report progress (R110). -/
theorem exec_rxHandler_report {p : RxPhase} (h : exec p.handler s = .next t) :
    t.out.rxStatus = Status.progressed.code ∧ t.out.fwdTake = true ∧ t.out.txStatus = 0b00 := by
  cases p with
  | awaitStart => obtain ⟨-, rfl⟩ | ⟨-, rfl⟩ := exec_rxAwaitStart_next h <;> exact ⟨rfl, rfl, rfl⟩
  | readLength =>
    obtain rfl := exec_rxReadLength_next h
    exact ⟨rfl, rfl, rfl⟩
  | readPayload =>
    obtain ⟨-, rfl⟩ := exec_rxReadPayload_next h
    exact ⟨rfl, rfl, rfl⟩
  | verifyChecksum => obtain ⟨-, rfl⟩ | ⟨-, rfl⟩ := exec_rxVerifyChecksum_next h <;> exact ⟨rfl, rfl, rfl⟩
  | awaitEnd => obtain ⟨-, -, -, rfl⟩ | ⟨-, rfl⟩ := exec_rxAwaitEnd_next h <;> exact ⟨rfl, rfl, rfl⟩

/-- What a sender step reports, in the state after it (R87): it has nothing to do or goes on waiting, it put a byte, it
timed out, or its transmission is complete. -/
inductive SenderReport (t : State) : Prop where
  | waiting (phase : t.tx.phase = .idle ∨ t.tx.phase = .wait) (status : t.out.txStatus = Status.waiting.code)
      (put : t.out.fwdPut = false)
  | put (phase : t.tx.phase ≠ .idle ∧ t.tx.phase ≠ .wait ∧ t.tx.phase ≠ .done)
      (status : t.out.txStatus = Status.progressed.code) (put : t.out.fwdPut = true)
  | timeout (phase : t.tx.phase = .emitStart) (status : t.out.txStatus = Status.progressed.code)
      (put : t.out.fwdPut = false)
  | completed (phase : t.tx.phase = .done) (status : t.out.txStatus = Status.completed.code)
      (put : t.out.fwdPut = false)

theorem emitted_report {tx : Sender} (h : tx.phase ≠ .idle ∧ tx.phase ≠ .wait ∧ tx.phase ≠ .done) (b : Byte) (s : State) :
    SenderReport (emitted b tx s) :=
  .put h rfl rfl

/-- A wait check reports the ACK, the timeout or that it goes on waiting (R150). -/
theorem waitCheck_report (d : Nat) (h : s.out.fwdPut = false) : SenderReport (waitCheck d s) := by
  obtain ⟨-, -, e⟩ | ⟨-, -, e⟩ | ⟨-, -, e⟩ := waitCheck_eq d s <;> rw [e]
  · exact .completed rfl rfl h
  · exact .timeout rfl rfl h
  · exact .waiting (.inr rfl) rfl h

theorem exec_txHandler_report (h : exec s.tx.phase.handler s = .next t) : SenderReport t := by
  cases hp : s.tx.phase <;> rw [hp] at h
  case idle =>
    obtain rfl := exec_txIdle_next h
    exact .waiting (.inl hp) rfl rfl
  case emitStart =>
    obtain rfl := exec_txEmitStart_next h
    exact emitted_report (by simp) _ _
  case emitLength =>
    obtain rfl := exec_txEmitLength_next h
    refine emitted_report ?_ _ _
    split <;> simp
  case emitPayload =>
    obtain ⟨_, rfl⟩ := exec_txEmitPayload_next h
    refine emitted_report ?_ _ _
    split <;> simp [hp]
  case emitChecksum =>
    obtain rfl := exec_txEmitChecksum_next h
    exact emitted_report (by simp) _ _
  case emitEnd =>
    obtain rfl := exec_txEmitEnd_next h
    exact emitted_report (by simp) _ _
  case waitEntry =>
    obtain ⟨-, rfl⟩ := exec_txWaitEntry_next h
    exact waitCheck_report _ rfl
  case wait =>
    obtain rfl := exec_txWait_next h
    exact waitCheck_report _ rfl
  case done =>
    obtain rfl := exec_txDone_next h
    exact .completed hp rfl rfl

/-- A sender step drives no receiver status (R44). -/
theorem exec_sender_rxStatus {i : Instr} (hi : i.isSender = true) (h : exec i s = .next t) : t.out.rxStatus = 0b00 := by
  obtain ⟨-, b, tx, rfl⟩ | ⟨-, tx, evs, st, rfl⟩ | ⟨-, st, rfl⟩ := exec_sender_next hi h <;> rfl

theorem TxPhase.handler_isSender (p : TxPhase) : p.handler.isSender = true := by
  cases p <;> rfl

end Reports

/-- Settles O46: the receiver reports by whether it found a byte, the sender by which of its four reports it makes. -/
theorem statusTellsWhatTheStepDid : Obligations.StatusTellsWhatTheStepDid := by
  intro s t rest hf h
  refine ⟨fun hs => ?_, fun hs => ?_⟩
  · have hx := step_stepRx_next hf hs h
    cases ha : s.fwd.avail <;> simp only [ha, if_true, Bool.false_eq_true, if_false] at hx ⊢
    · obtain rfl := exec_rxNobyte_next hx
      exact ⟨rfl, rfl, rfl⟩
    · exact exec_rxHandler_report hx
  · have hx := step_stepTx_next hf hs h
    refine ⟨exec_sender_rxStatus (TxPhase.handler_isSender _) hx, ?_⟩
    have hr : SenderReport t := exec_txHandler_report (s := { s with sched := rest }) hx
    cases hr with
    | waiting phase status put => obtain hp | hp := phase <;> simp [hp, status, put, Status.code]
    | put phase status put => simp [phase, status, put, Status.code]
    | timeout phase status put => simp [phase, status, put, Status.code]
    | completed phase status put => simp [phase, status, put, Status.code]

end Sys2Proof.Machine

namespace Sys2Proof.Machine

/-! ## Proofs: the checksum (spec/40_codec.md) -/

/-- Settles O34: R104's one-byte extension of the fold is the law `checksum_snoc`, its start the law `checksum_nil`. -/
theorem checksumOfOneMoreByte : Obligations.ChecksumOfOneMoreByte :=
  fun p b => ⟨checksum_nil, checksum_snoc p b⟩

end Sys2Proof.Machine

namespace Sys2Proof.Machine

/-! ## Proofs: the receiver (spec/41_receiver.md) -/

section ReceiverSteps

variable {s t : State} {i : Instr} {rest : List Move}

/-! ### The dispatch of a receiver step (R110) -/

theorem RxPhase.handler_isReceiver (p : RxPhase) : p.handler.isReceiver = true := by
  cases p <;> rfl

/-- An operation other than TX_START raises no fault, so nothing stops it (R201). -/
theorem stopOnFault_exec (hf : s.fault = none) (hi : i.isStart = false) : stopOnFault (exec i s) = exec i s := by
  cases h : exec i s with
  | next t => simp [stopOnFault, exec_next_fault hi h, hf]
  | fault f => rfl
  | refused r => rfl

theorem step_stepRx (hf : s.fault = none) (hs : s.sched = .stepRx :: rest) :
    step s = exec (if s.fwd.avail then s.rx.phase.handler else .rxNobyte) { s with sched := rest } := by
  have hd := decodeSelector_rxSelector { s with sched := rest }
  rw [step_cons hf hs, perform_of_decode (by exact hd), stopOnFault_exec (by exact hf) (decodeSelector_isStart hd)]

/-- A handler that finds a byte takes it, and leaves the rest of the slot (R64, R110). -/
theorem exec_rxHandler_fwd {p : RxPhase} (h : exec p.handler s = .next t) :
    t.fwd = { s.fwd with avail := false } ∧ t.out.fwdTake = true := by
  have htake := (exec_rxHandler_report h).2.1
  refine ⟨?_, htake⟩
  obtain rfl | ⟨rx, ev, rfl⟩ | ⟨rx, ev, rbuf, rlen, rfl⟩ := exec_receiver_next p.handler_isReceiver h
  · cases htake
  · rfl
  · rfl

/-- Settles O11: the selector decodes to RX.NOBYTE or to the handler of the phase; the first leaves an empty slot as it
is, the second takes the byte. -/
theorem receiverStepDispatchesOnPhase : Obligations.ReceiverStepDispatchesOnPhase := by
  intro s rest hf hs
  refine ⟨step_stepRx hf hs, fun t h => ?_⟩
  have hx := step_stepRx_next hf hs h
  cases ha : s.fwd.avail <;> simp only [ha, if_true, Bool.false_eq_true, if_false] at hx
  · obtain rfl := exec_rxNobyte_next hx
    exact ⟨(slot_with_avail_false ha).symm, rfl⟩
  · exact exec_rxHandler_fwd (s := { s with sched := rest }) hx

/-! ### The accept is the only put into REV (R124) -/

/-- From `s` to `t` no byte was put into REV by the receiver, and no event emitted is an accept. -/
def WithoutAccept (s t : State) : Prop :=
  t.out.revPut = false ∧ ∃ evs, t.trace = s.trace ++ evs ∧ ∀ len, .rxAccept len ∉ evs

theorem trace_ne_of_withoutAccept (h : WithoutAccept s t) (len : Byte) : t.trace ≠ s.trace ++ [.rxAccept len] := by
  obtain ⟨-, evs, htrace, hevs⟩ := h
  rw [htrace]
  intro e
  exact hevs len (by simp [List.append_cancel_left e])

theorem lengthBranch_ne_rxAccept (cap : Nat) (b len : Byte) : (lengthBranch cap b).2 ≠ .rxAccept len := by
  unfold lengthBranch
  split_ifs <;> simp

theorem taken_withoutAccept {rx : Receiver} {ev : Event} (hev : ∀ len, ev ≠ .rxAccept len) :
    WithoutAccept s (taken rx ev s) :=
  ⟨rfl, [ev], rfl, fun len hmem => hev len (List.mem_singleton.mp hmem).symm⟩

/-- Of the receiver's steps only RX.AWAIT_END on END accepts. -/
theorem exec_receiver_withoutAccept (hi : i.isReceiver = true) (hne : i = .rxAwaitEnd → s.fwd.data ≠ wireEnd)
    (h : exec i s = .next t) : WithoutAccept s t := by
  cases i <;> cases hi
  case rxNobyte =>
    obtain rfl := exec_rxNobyte_next h
    exact ⟨rfl, [], by simp, by simp⟩
  case rxAwaitStart =>
    obtain ⟨-, rfl⟩ | ⟨-, rfl⟩ := exec_rxAwaitStart_next h
    · exact taken_withoutAccept nofun
    · exact taken_withoutAccept nofun
  case rxReadLength =>
    obtain rfl := exec_rxReadLength_next h
    exact taken_withoutAccept (lengthBranch_ne_rxAccept _ _)
  case rxReadPayload =>
    obtain ⟨-, rfl⟩ := exec_rxReadPayload_next h
    exact taken_withoutAccept nofun
  case rxVerifyChecksum =>
    obtain ⟨-, rfl⟩ | ⟨-, rfl⟩ := exec_rxVerifyChecksum_next h
    · exact taken_withoutAccept nofun
    · exact taken_withoutAccept nofun
  case rxAwaitEnd =>
    obtain ⟨hd, -⟩ | ⟨-, rfl⟩ := exec_rxAwaitEnd_next h
    · exact absurd hd (hne rfl)
    · exact taken_withoutAccept nofun

/-- The events of a wait check are the sender's (R150). -/
theorem waitCheck_events (d : Nat) (s : State) :
    ∃ evs, (waitCheck d s).trace = s.trace ++ evs ∧ ∀ len, .rxAccept len ∉ evs := by
  have hdisc : ∀ len, .rxAccept len ∉ discarded s := by
    unfold discarded
    split <;> simp
  obtain ⟨-, -, e⟩ | ⟨-, -, e⟩ | ⟨-, -, e⟩ := waitCheck_eq d s <;> rw [e]
  · exact ⟨_, rfl, by simp⟩
  · exact ⟨_, rfl, by simp [hdisc]⟩
  · exact ⟨_, rfl, hdisc⟩

theorem exec_wait_events (hi : i.isWait = true) (h : exec i s = .next t) :
    ∃ evs, t.trace = s.trace ++ evs ∧ ∀ len, .rxAccept len ∉ evs := by
  cases i <;> cases hi
  case txWaitEntry =>
    obtain ⟨-, rfl⟩ := exec_txWaitEntry_next h
    exact waitCheck_events _ _
  case txWait =>
    obtain rfl := exec_txWait_next h
    exact waitCheck_events _ _

theorem exec_sender_withoutAccept (hi : i.isSender = true) (h : exec i s = .next t) : WithoutAccept s t := by
  obtain ⟨-, -, -, -, -, hput⟩ := exec_sender_frame hi h
  refine ⟨hput, ?_⟩
  obtain ⟨-, b, tx, rfl⟩ | ⟨hw, -⟩ | ⟨-, st, rfl⟩ := exec_sender_next hi h
  · exact ⟨[.txByte b], rfl, by simp⟩
  · exact exec_wait_events hw h
  · exact ⟨[], by simp, by simp⟩

/-- A command emits nothing, or the event of TX_START (R205). -/
theorem exec_command_trace (hr : i.isReceiver = false) (hs : i.isSender = false) (h : exec i s = .next t) :
    t.trace = s.trace ∨ ∃ len, t.trace = s.trace ++ [.txStart len] := by
  obtain rfl | ⟨len, p, rfl⟩ | rfl | ⟨b, rfl⟩ | rfl | ⟨b, rfl⟩ | rfl := command_of_no_agent hr hs
  · exact .inl (by rw [exec_reset_next h]; rfl)
  · obtain ⟨-, rfl⟩ | ⟨-, -, rfl⟩ | ⟨-, -, -, -, rfl⟩ := exec_txStart_next h
    · exact .inl rfl
    · exact .inl rfl
    · exact .inr ⟨len, rfl⟩
  · exact .inl (by rw [(exec_tick_next h).2])
  · exact .inl (by rw [exec_envPutFwd_next h])
  · exact .inl (by rw [exec_envTakeFwd_next h])
  · exact .inl (by rw [exec_envPutRev_next h])
  · exact .inl (by rw [exec_envTakeRev_next h])

/-- Only RX.AWAIT_END on END accepts. -/
theorem exec_withoutAccept (hne : i = .rxAwaitEnd → s.fwd.data ≠ wireEnd) (h : exec i s = .next t) :
    WithoutAccept s t := by
  cases hr : i.isReceiver
  · cases hs : i.isSender
    · refine ⟨by simp [(exec_command_next hr hs h).1, StepOut.zero], ?_⟩
      obtain htrace | ⟨len, htrace⟩ := exec_command_trace hr hs h
      · exact ⟨[], by simp [htrace], by simp⟩
      · exact ⟨_, htrace, by simp⟩
    · exact exec_sender_withoutAccept hs h
  · exact exec_receiver_withoutAccept hr hne h

end ReceiverSteps

/-- Settles O42: RX.AWAIT_END on END does both, every other step neither. -/
theorem oneAckPerAcceptAndNoOtherByte : Obligations.OneAckPerAcceptAndNoOtherByte := by
  intro i s t h
  by_cases hacc : i = .rxAwaitEnd ∧ s.fwd.data = wireEnd
  · obtain ⟨rfl, hd⟩ := hacc
    obtain ⟨-, -, -, rfl⟩ | ⟨hn, -⟩ := exec_rxAwaitEnd_next h
    · exact ⟨⟨fun _ => rfl, fun _ => rfl⟩, fun _ => ⟨rfl, hd, rfl, rfl, rfl, rfl⟩⟩
    · exact absurd hd hn
  · have hno : WithoutAccept s t := exec_withoutAccept (not_and.mp hacc) h
    have hput : t.out.revPut ≠ true := by simp [hno.1]
    exact ⟨iff_of_false hput (trace_ne_of_withoutAccept hno _), fun hp => absurd hp hput⟩

/-! ### The handlers (R111 to R120) -/

/-- Settles O14: in an enabled state RX.NOBYTE only drives its status. -/
theorem nobyteReturnsWaitingAndChangesNothing : Obligations.NobyteReturnsWaitingAndChangesNothing := by
  intro s h
  simp only [exec, execRxNobyte, move_of_enabled h]
  rfl

/-- Settles O15: the two branches of R112 on the byte taken. -/
theorem awaitStartLooksForTheStartMarker : Obligations.AwaitStartLooksForTheStartMarker := by
  intro s h
  simp only [exec, execRxAwaitStart, move_of_enabled h]
  constructor
  · intro hd
    rw [if_pos (by exact hd)]
    rfl
  · intro hd
    rw [if_neg (by exact hd)]
    rfl

/-- The byte that RX.READ_LENGTH takes selects the next phase and the event by R113's branches. -/
theorem exec_rxReadLength_of_enabled {s : State} (h : Enabled s) :
    exec .rxReadLength s = .next (taken
      { s.rx with expLen := s.fwd.data, phase := (lengthBranch s.params.cap s.fwd.data).1 }
      (lengthBranch s.params.cap s.fwd.data).2 s) := by
  simp only [exec, execRxReadLength, move_of_enabled h]
  rfl

/-- Settles O16: the three branches of `lengthBranch`; a LENGTH of 0 is not above CAP. -/
theorem readLengthRecordsTheLength : Obligations.ReadLengthRecordsTheLength := by
  intro s h
  rw [exec_rxReadLength_of_enabled h]
  refine ⟨fun hcap => ?_, fun hzero => ?_, fun hpos hcap => ?_⟩
  · have hb : lengthBranch s.params.cap s.fwd.data = (.awaitStart, .rxLengthReject s.fwd.data) := if_pos hcap
    rw [hb]
    rfl
  · have hb : lengthBranch s.params.cap 0 = (.verifyChecksum, .rxLength 0) := by simp [lengthBranch]
    rw [hzero, hb]
    rfl
  · have hb : lengthBranch s.params.cap s.fwd.data = (.readPayload, .rxLength s.fwd.data) := by
      rw [lengthBranch, if_neg (Nat.not_lt.mpr hcap), if_neg hpos]
    rw [hb]
    rfl

/-- Settles O17: inside `pbuf` the write of R115 succeeds. -/
theorem readPayloadCollectsOneByte : Obligations.ReadPayloadCollectsOneByte := by
  intro s h hi
  have hw : writeBuf s.rx.pbuf s.rx.count.toNat s.fwd.data = some (s.rx.pbuf.set s.rx.count.toNat s.fwd.data) :=
    writeBuf_eq_some.mpr ⟨hi, rfl⟩
  simp only [exec, execRxReadPayload, move_of_enabled h, takeFwd, slotTake, hw]
  rfl

/-- Settles O18: the two branches of R117 on the byte taken. -/
theorem verifyChecksumComparesWithTheFold : Obligations.VerifyChecksumComparesWithTheFold := by
  intro s h
  simp only [exec, execRxVerifyChecksum, move_of_enabled h]
  constructor
  · intro hd
    rw [if_pos (by exact hd)]
    rfl
  · intro hd
    rw [if_neg (by exact hd)]
    rfl

/-- ACCEPT, R120, with the length inside both buffers: the copy succeeds. -/
theorem accept_of_le {s : State} (hp : s.rx.expLen.toNat ≤ s.rx.pbuf.length)
    (hr : s.rx.expLen.toNat ≤ s.rbuf.length) :
    accept s = some (putRev wireAck { s with
      rbuf := s.rx.pbuf.take s.rx.expLen.toNat ++ s.rbuf.drop s.rx.expLen.toNat
      rlen := s.rx.expLen }) := by
  simp only [accept, copyPrefix_eq_some.mpr ⟨⟨hp, hr⟩, rfl⟩]

/-- Settles O19: on END the accept succeeds; any other byte takes the second branch of R119. -/
theorem awaitEndAcceptsOrDiscards : Obligations.AwaitEndAcceptsOrDiscards := by
  intro s h
  simp only [exec, execRxAwaitEnd, move_of_enabled h]
  constructor
  · intro hd hp hr
    rw [if_pos (by exact hd), accept_of_le (by exact hp) (by exact hr)]
    rfl
  · intro hd
    rw [if_neg (by exact hd)]
    rfl

end Sys2Proof.Machine

namespace Sys2Proof.Machine

/-! ## Proofs: the sender (spec/42_sender.md)

In an enabled state each handler answers one of three forms: an emission (`emitted`), the end of a wait check (`waited`), or
the same state with a status. The statements are these forms with their registers, events and signals written out. -/

section SenderSteps

variable {s t : State} {i : Instr} {rest : List Move}

/-! ### The dispatch of a sender step (R142) -/

theorem step_stepTx (hf : s.fault = none) (hs : s.sched = .stepTx :: rest) :
    step s = exec s.tx.phase.handler { s with sched := rest } := by
  have hd := decodeSelector_txSelector { s with sched := rest }
  rw [step_cons hf hs, perform_of_decode (by exact hd), stopOnFault_exec (by exact hf) (decodeSelector_isStart hd)]

/-- An emission takes nothing from REV, a wait check puts nothing into FWD, and IDLE and DONE do neither (R142). -/
theorem exec_sender_not_put_and_take (hi : i.isSender = true) (h : exec i s = .next t) :
    ¬ (t.out.fwdPut = true ∧ t.out.revTake = true) := by
  obtain ⟨-, b, tx, rfl⟩ | ⟨-, tx, evs, st, rfl⟩ | ⟨-, st, rfl⟩ := exec_sender_next hi h
  · simp [emitted, StepOut.zero]
  · simp [waited, StepOut.zero]
  · simp [StepOut.zero]

/-! ### The emissions (R143 to R147) -/

theorem emitByte_eq_emitted (b : Byte) (tx : Sender) (s : State) :
    emitByte b { s with tx := tx, out := StepOut.zero } = emitted b tx s := rfl

theorem exec_txEmitStart_of_enabled (h : Enabled s) :
    exec .txEmitStart s = .next (emitted wireStart { s.tx with idx := 0, phase := .emitLength } s) := by
  simp only [exec, execTxEmitStart, move_of_enabled h, emitByte_eq_emitted]

theorem exec_txEmitChecksum_of_enabled (h : Enabled s) :
    exec .txEmitChecksum s = .next (emitted s.tx.chk { s.tx with phase := .emitEnd } s) := by
  simp only [exec, execTxEmitChecksum, move_of_enabled h, emitByte_eq_emitted]

theorem exec_txEmitEnd_of_enabled (h : Enabled s) :
    exec .txEmitEnd s = .next (emitted wireEnd { s.tx with phase := .waitEntry } s) := by
  simp only [exec, execTxEmitEnd, move_of_enabled h, emitByte_eq_emitted]

/-- R144: a length of 0 skips the payload. -/
theorem exec_txEmitLength_of_enabled (h : Enabled s) :
    exec .txEmitLength s = .next (emitted s.tx.len
      { s.tx with phase := if s.tx.len = 0 then .emitChecksum else .emitPayload } s) := by
  have hzero : 0 < s.tx.len.toNat ↔ ¬ s.tx.len = 0 := by
    rw [BitVec.toNat_eq]
    exact Nat.pos_iff_ne_zero
  simp only [exec, execTxEmitLength, move_of_enabled h, emitByte_eq_emitted, hzero, ite_not]

/-- R145, with the index inside `txbuf`. -/
theorem exec_txEmitPayload_of_enabled (h : Enabled s) {v : Byte} (hv : s.tx.txbuf[s.tx.idx.toNat]? = some v) :
    exec .txEmitPayload s = .next (emitted v { s.tx with
      idx := s.tx.idx + 1
      phase := if s.tx.idx + 1 = s.tx.len then .emitChecksum else s.tx.phase } s) := by
  simp only [exec, execTxEmitPayload, move_of_enabled h, readBuf, hv, emitByte_eq_emitted]

/-! ### The wait check (R148 to R150) -/

theorem exec_txWait_of_enabled (h : Enabled s) :
    exec .txWait s = .next (waitCheck s.tx.deadline { s with out := StepOut.zero }) := by
  simp only [exec, execTxWait, move_of_enabled h]

theorem exec_txWaitEntry_of_enabled (h : Enabled s) (hfits : tickFits s.params s.clock = true) :
    exec .txWaitEntry s = .next (waitCheck (s.clock + s.params.ackWaitPeriod)
      { s with tx := { s.tx with deadline := s.clock + s.params.ackWaitPeriod }, out := StepOut.zero }) := by
  simp only [exec, execTxWaitEntry, move_of_enabled h, hfits, if_true]

/-- R8: the retry counter stays at its largest value. -/
theorem satInc_eq (v : RetryCount) : satInc v = if v = 0xFFFFFFFF then 0xFFFFFFFF else v + 1 := by
  unfold satInc
  split_ifs <;> bv_omega

variable {d : Nat}

/-- The ACK wins, whatever the deadline (R150, decision D6). -/
theorem waitCheck_of_ack (ha : s.rev.avail = true) (hk : s.rev.data = wireAck) :
    waitCheck d s = waited { s.tx with phase := .done } [.txAck] .completed s := by
  obtain ⟨-, -, e⟩ | ⟨hno, -⟩ | ⟨hno, -⟩ := waitCheck_eq d s
  · exact e
  · exact absurd ⟨ha, hk⟩ hno
  · exact absurd ⟨ha, hk⟩ hno

/-- Without an ACK a deadline that is reached is a timeout (R150). -/
theorem waitCheck_of_timeout (hno : ¬ (s.rev.avail = true ∧ s.rev.data = wireAck)) (hd : d ≤ s.clock) :
    waitCheck d s = waited
      { s.tx with retry := if s.tx.retry = 0xFFFFFFFF then 0xFFFFFFFF else s.tx.retry + 1, phase := .emitStart }
      (discarded s ++ [.txTimeout]) .progressed s := by
  obtain ⟨ha, hk, -⟩ | ⟨-, -, e⟩ | ⟨-, hlt, -⟩ := waitCheck_eq d s
  · exact absurd ⟨ha, hk⟩ hno
  · rw [e, satInc_eq]
  · exact absurd hd (Nat.not_le.mpr hlt)

/-- Without an ACK and before the deadline the sender waits on (R150). -/
theorem waitCheck_of_lt (hno : ¬ (s.rev.avail = true ∧ s.rev.data = wireAck)) (hd : s.clock < d) :
    waitCheck d s = waited { s.tx with phase := .wait } (discarded s) .waiting s := by
  obtain ⟨ha, hk, -⟩ | ⟨-, hle, -⟩ | ⟨-, -, e⟩ := waitCheck_eq d s
  · exact absurd ⟨ha, hk⟩ hno
  · exact absurd hd (Nat.not_lt.mpr hle)
  · exact e

/-! ### TX_START (R141) -/

/-- With a length inside CAP and `txbuf`, TX_START latches the payload. -/
theorem exec_txStart_latches (h : Enabled s) {len : Byte} {p : List Byte} (hl : p.length = len.toNat)
    (hp : s.tx.phase = .idle ∨ s.tx.phase = .done) (hc : len.toNat ≤ s.params.cap)
    (hb : len.toNat ≤ s.tx.txbuf.length) :
    exec (.txStart len p) s = .next { s with
      tx := { s.tx with
        txbuf := p ++ s.tx.txbuf.drop len.toNat
        len := len
        chk := checksum p
        retry := 0
        idx := 0
        phase := .emitStart }
      trace := s.trace ++ [.txStart len]
      out := StepOut.zero } := by
  have htake : p.take len.toNat = p := List.take_of_length_le hl.le
  have hcopy : copyPrefix len.toNat p s.tx.txbuf = some (p ++ s.tx.txbuf.drop len.toNat) :=
    copyPrefix_eq_some.mpr ⟨⟨hl.ge, hb⟩, by rw [htake]⟩
  simp only [exec, execTxStart, move_of_enabled h, mayStart_eq_true.mpr hp, if_true, if_neg (Nat.not_lt.mpr hc),
    if_neg (Nat.not_lt.mpr hl.ge), hcopy, htake, emit]

end SenderSteps

/-! ### The statements -/

/-- Settles O12: the selector decodes to the handler of the phase, a sender operation. -/
theorem senderStepDispatchesOnPhase : Obligations.SenderStepDispatchesOnPhase :=
  fun s _ hf hs => ⟨step_stepTx hf hs, fun _ h =>
    exec_sender_not_put_and_take s.tx.phase.handler_isSender (step_stepTx_next hf hs h)⟩

/-- Settles O20: in an enabled state both handlers only drive their status. -/
theorem idleAndDoneChangeNothing : Obligations.IdleAndDoneChangeNothing := by
  intro s h
  simp only [exec, execTxIdle, execTxDone, move_of_enabled h]
  exact ⟨rfl, rfl⟩

/-- Settles O21: the three emissions without a choice. -/
theorem emitStartChecksumEndPutTheirByte : Obligations.EmitStartChecksumEndPutTheirByte :=
  fun _ h => ⟨exec_txEmitStart_of_enabled h, exec_txEmitChecksum_of_enabled h, exec_txEmitEnd_of_enabled h⟩

/-- Settles O22: the emission of the length. -/
theorem emitLengthPutsTheLength : Obligations.EmitLengthPutsTheLength :=
  fun _ h => exec_txEmitLength_of_enabled h

/-- Settles O23: the emission of the byte at the index. -/
theorem emitPayloadPutsTheNextByte : Obligations.EmitPayloadPutsTheNextByte :=
  fun _ _ h hv => exec_txEmitPayload_of_enabled h hv

/-- Settles O24: the three ends of the wait check against the captured deadline. -/
theorem waitDecidesByAckThenDeadline : Obligations.WaitDecidesByAckThenDeadline := by
  intro s h
  rw [exec_txWait_of_enabled h]
  refine ⟨fun ha hk => ?_, fun hno hd => ?_, fun hno hd => ?_⟩
  · rw [waitCheck_of_ack (by exact ha) (by exact hk)]
    simp [waited, ha, Status.code]
  · rw [waitCheck_of_timeout (by exact hno) (by exact hd), waited, ← List.append_assoc]
    rfl
  · rw [waitCheck_of_lt (by exact hno) (by exact hd)]
    rfl

/-- Settles O25: the three ends of the wait check against the deadline just written, which is reached at once exactly when
ACK_WAIT_PERIOD is 0. -/
theorem waitEntryCapturesTheDeadline : Obligations.WaitEntryCapturesTheDeadline := by
  intro s h hfits
  rw [exec_txWaitEntry_of_enabled h hfits]
  refine ⟨fun ha hk => ?_, fun hno hzero => ?_, fun hno hpos => ?_⟩
  · rw [waitCheck_of_ack (by exact ha) (by exact hk)]
    simp [waited, ha, Status.code]
  · rw [hzero, waitCheck_of_timeout (by exact hno) (by exact Nat.le_refl s.clock), waited, ← List.append_assoc]
    rfl
  · rw [waitCheck_of_lt (by exact hno) (by exact Nat.lt_add_of_pos_right hpos)]
    rfl

/-- Settles O26: the payload is latched, or TX_START is misused in one of its two ways. -/
theorem txStartLatchesOrFaults : Obligations.TxStartLatchesOrFaults :=
  fun _ _ _ h hl => ⟨exec_txStart_latches h hl,
    fun hp => exec_txStart_misused h (.inl ⟨hp.1, hp.2, rfl⟩),
    fun hp hc => exec_txStart_misused h (.inr ⟨hp, hc, rfl⟩)⟩

end Sys2Proof.Machine

namespace Sys2Proof.Machine

/-! ## Proofs: the environment (spec/43_environment.md)

In an enabled state each move of the environment is its own update of the clock or of one slot, with the outputs at 0. -/

section EnvironmentMoves

variable {s : State}

/-- R184, R186: an empty slot already has `avail` clear, so the drop is the same update on both branches. -/
theorem slotDrop_eq (sl : Slot) : slotDrop sl = { sl with avail := false } := by
  cases ha : sl.avail
  · rw [slot_with_avail_false ha]
    simp [slotDrop, slotAvail, ha]
  · simp [slotDrop, slotAvail, slotTake, ha]

/-- R182, with room for the wait period after the tick (R6). -/
theorem exec_tick_of_enabled (h : Enabled s) (hfits : tickFits s.params (s.clock + 1) = true) :
    exec .tick s = .next { s with clock := s.clock + 1, out := StepOut.zero } := by
  simp only [exec, execTick, move_of_enabled h, hfits, if_true]

theorem exec_envPutFwd_of_enabled (h : Enabled s) (b : Byte) :
    exec (.envPutFwd b) s = .next { s with fwd := slotPut s.fwd b, out := StepOut.zero } := by
  simp only [exec, execEnvPutFwd, move_of_enabled h]

theorem exec_envTakeFwd_of_enabled (h : Enabled s) :
    exec .envTakeFwd s = .next { s with fwd := { s.fwd with avail := false }, out := StepOut.zero } := by
  simp only [exec, execEnvTakeFwd, move_of_enabled h, slotDrop_eq]

theorem exec_envPutRev_of_enabled (h : Enabled s) (b : Byte) :
    exec (.envPutRev b) s = .next { s with rev := slotPut s.rev b, out := StepOut.zero } := by
  simp only [exec, execEnvPutRev, move_of_enabled h]

theorem exec_envTakeRev_of_enabled (h : Enabled s) :
    exec .envTakeRev s = .next { s with rev := { s.rev with avail := false }, out := StepOut.zero } := by
  simp only [exec, execEnvTakeRev, move_of_enabled h, slotDrop_eq]

end EnvironmentMoves

/-- Settles O30: the premise on the tick counter is the one TICK checks. -/
theorem tickAddsOne : Obligations.TickAddsOne :=
  fun _ h hfits => exec_tick_of_enabled h hfits

/-- Settles O31: a put is `slotPut` of its slot, a take clears `avail`, which an empty slot has clear already. -/
theorem environmentPutsAndDropsBytes : Obligations.EnvironmentPutsAndDropsBytes :=
  fun _ b h => ⟨exec_envPutFwd_of_enabled h b, exec_envTakeFwd_of_enabled h,
    exec_envPutRev_of_enabled h b, exec_envTakeRev_of_enabled h⟩

end Sys2Proof.Machine

namespace Sys2Proof.Machine

/-! ## Proofs: reset (spec/70_reset_and_hazards.md)

In an enabled state RESET is `resetBlock` at the next 2*CAP draws, with the outputs at 0. -/

/-- R230, with the draws of log entry 4. -/
theorem exec_reset_of_enabled {s : State} (h : Enabled s) :
    exec .reset s = .next
      (resetBlock (drawBytes s.draws s.params.cap) (drawBytes (s.draws + s.params.cap) s.params.cap)
        { s with draws := s.draws + 2 * s.params.cap, out := StepOut.zero }) := by
  simp only [exec, execReset, move_of_enabled h]

/-- Settles O28: the two payload buffers take CAP draws each, the first from the count of draws on, the second after them. -/
theorem resetGivesTheResetValues : Obligations.ResetGivesTheResetValues :=
  fun s h => ⟨drawBytes s.draws s.params.cap, drawBytes (s.draws + s.params.cap) s.params.cap,
    s.draws + 2 * s.params.cap, drawBytes_length _ _, drawBytes_length _ _, exec_reset_of_enabled h⟩

end Sys2Proof.Machine

namespace Sys2Proof.Machine

/-! ## Proofs: encodings and buses, the round trips (spec/30_encoding.md, spec/10_state.md R44) -/

/-! ### Commands -/

/-- Settles O3: a selector by evaluation of the table, a command by its code, TX_START by the length of its payload. -/
theorem decodeOfEncodeIsTheInstruction : Obligations.DecodeOfEncodeIsTheInstruction := by
  intro i hwf
  cases i with
  | txStart len p => exact decode_txStart.mpr ⟨rfl, of_decide_eq_true hwf⟩
  | _ => rfl

/-- Settles O4: each row of R90's table gives back its code and its operand bytes. -/
theorem encodeOfDecodedCommandIsTheCommand : Obligations.EncodeOfDecodedCommandIsTheCommand := by
  intro code ops i h
  have hcode (n : Nat) (hn : code.toNat = n) : code = BitVec.ofNat 4 n := by
    rw [← hn, BitVec.ofNat_toNat, BitVec.setWidth_eq]
  unfold decodeCommand at h
  split at h
  case h_1 hc | h_3 hc | h_5 hc | h_7 hc =>
    obtain ⟨rfl, rfl⟩ := noOperands_ok.mp h
    obtain rfl := hcode _ hc
    exact ⟨rfl, rfl⟩
  case h_2 hc =>
    obtain ⟨len, p, rfl, hl, rfl⟩ := startOperands_ok.mp h
    obtain rfl := hcode _ hc
    exact ⟨rfl, decide_eq_true hl⟩
  case h_4 hc | h_6 hc =>
    obtain ⟨b, rfl, rfl⟩ := oneByte_ok.mp h
    obtain rfl := hcode _ hc
    exact ⟨rfl, rfl⟩
  case h_8 => cases h

/-- Settles O5: nine closed words, by evaluation. -/
theorem tableWordsReadAsTheirRows : Obligations.TableWordsReadAsTheirRows := by
  unfold Obligations.TableWordsReadAsTheirRows
  decide

/-! ### Bytes on a bus (R44) -/

/-- The byte above the lowest one is the lowest one of the word shifted by a byte. -/
theorem byteOf_succ (w i : Nat) : byteOf w (i + 1) = byteOf (w / 256) i := by
  rw [byteOf, byteOf, Nat.pow_succ', Nat.div_div_eq_div_mul]

/-- R44: byte `i` of the bus is the `i`-th byte packed onto it. -/
theorem byteOf_packBytes {bs : List Byte} {i : Nat} (h : i < bs.length) : byteOf (packBytes bs) i = bs[i] := by
  induction bs generalizing i with
  | nil => cases h
  | cons b bs ih =>
    have hpack : packBytes (b :: bs) = b.toNat + 256 * packBytes bs := rfl
    cases i with
    | zero =>
      refine BitVec.eq_of_toNat_eq ?_
      simpa [byteOf, hpack] using b.isLt
    | succ i =>
      have hshift : packBytes (b :: bs) / 256 = packBytes bs := by omega
      rw [byteOf_succ, hshift, ih (by simpa using h)]
      rfl

theorem packBytes_lt (bs : List Byte) : packBytes bs < 2 ^ (8 * bs.length) := by
  induction bs with
  | nil => decide
  | cons b bs ih =>
    have hpack : packBytes (b :: bs) = b.toNat + 256 * packBytes bs := rfl
    have hwidth : 2 ^ (8 * (b :: bs).length) = 256 * 2 ^ (8 * bs.length) := by
      rw [List.length_cons, Nat.mul_succ, Nat.pow_add, Nat.mul_comm]
    omega

/-- Settles O6: the first `len` bytes of the bus are the payload, whatever is packed above it. -/
theorem payloadBusCarriesByteIAtBit8I : Obligations.PayloadBusCarriesByteIAtBit8I := by
  intro p rest len hl
  have hbytes : bytesOf (packBytes (p ++ rest)) 0 len.toNat = p := by
    refine List.ext_getElem (by simp [bytesOf, hl]) fun i _ hi => ?_
    have hbus : i < (p ++ rest).length := by simp; omega
    simp [bytesOf, byteOf_packBytes hbus, hi]
  rw [startSignals, hbytes]

/-- Settles O9: `rbuf_o` is the packed buffer; the phase codes name their phases. -/
theorem outputsAreViewsOfTheirRegisters : Obligations.OutputsAreViewsOfTheirRegisters :=
  fun s => ⟨fun _ h => byteOf_packBytes h, packBytes_lt s.rbuf, rxPhaseOfCode_code s.rx.phase,
    txPhaseOfCode_code s.tx.phase, rfl, rfl⟩

/-! ### A step performs its next move -/

/-- Settles O10: whatever the move, its encoding decodes to `i`, and the schedule is no part of that encoding. -/
theorem stepExecutesTheDecodedMove : Obligations.StepExecutesTheDecodedMove := by
  intro s rest i hf
  have perform_decoded (m : Move) (hs : s.sched = m :: rest)
      (hd : decode (encodedMove { s with sched := rest } m) = .ok i) :
      step s = stopOnFault (exec i { s with sched := rest }) := by
    rw [step_cons hf hs, perform_of_decode hd]
  exact ⟨fun hs hd => perform_decoded _ hs hd, fun hs hd => perform_decoded _ hs hd,
    fun _ _ hs hd => perform_decoded _ hs hd⟩

/-- Settles O13: without a fault and without a move to come the step is the identity. -/
theorem noMoveLeavesTheStateFrozen : Obligations.NoMoveLeavesTheStateFrozen := by
  intro s hf hs
  simp only [step, hf, hs]

end Sys2Proof.Machine

namespace Sys2Proof.Machine

/-! ## Proofs: what each operation writes (spec/10_state.md R47)

The groups of operations again, now with what a group leaves: a receiver step without an ACK, a sender step, a wait check,
and the commands of the environment. -/

section Writers

variable {i : Instr} {s t : State}

/-! ### The groups -/

theorem exists_txStart_of_isStart (hi : i.isStart = true) : ∃ len p, i = .txStart len p := by
  cases i <;> cases hi
  exact ⟨_, _, rfl⟩

/-- A receiver step that puts no ACK finds no byte, or takes one. -/
theorem exec_receiver_silent (hi : i.isReceiver = true) (hput : t.out.revPut = false) (h : exec i s = .next t) :
    t = { s with out := { StepOut.zero with rxStatus := Status.waiting.code } } ∨ ∃ rx ev, t = taken rx ev s := by
  obtain e | e | ⟨rx, ev, rbuf, rlen, rfl⟩ := exec_receiver_next hi h
  · exact .inl e
  · exact .inr e
  · cases hput

/-- Only RX.AWAIT_END puts the ACK (R120). -/
theorem exec_receiver_put (hi : i.isReceiver = true) (hne : i ≠ .rxAwaitEnd) (h : exec i s = .next t) :
    t.out.revPut = false :=
  (exec_receiver_withoutAccept hi (fun e => absurd e hne) h).1

/-- A receiver step leaves the sender and the model's own fields. -/
theorem exec_receiver_keeps (hi : i.isReceiver = true) (h : exec i s = .next t) :
    t.tx = s.tx ∧ t.params = s.params ∧ t.sched = s.sched ∧ t.draws = s.draws := by
  obtain rfl | ⟨rx, ev, rfl⟩ | ⟨rx, ev, rbuf, rlen, rfl⟩ := exec_receiver_next hi h <;> exact ⟨rfl, rfl, rfl, rfl⟩

/-- A sender step leaves the receiver, the result and the model's own fields. -/
theorem exec_sender_keeps (hi : i.isSender = true) (h : exec i s = .next t) :
    t.rx = s.rx ∧ t.rbuf = s.rbuf ∧ t.rlen = s.rlen ∧ t.params = s.params ∧ t.sched = s.sched ∧ t.draws = s.draws := by
  obtain ⟨-, b, tx, rfl⟩ | ⟨-, tx, evs, st, rfl⟩ | ⟨-, st, rfl⟩ := exec_sender_next hi h <;>
    exact ⟨rfl, rfl, rfl, rfl, rfl, rfl⟩

/-- An emission moves the index and the phase only (R143 to R147). -/
theorem exec_emission_tx (hi : i.isEmission = true) (h : exec i s = .next t) :
    t.tx = { s.tx with idx := t.tx.idx, phase := t.tx.phase } := by
  cases i <;> cases hi
  case txEmitStart => obtain rfl := exec_txEmitStart_next h; rfl
  case txEmitLength => obtain rfl := exec_txEmitLength_next h; rfl
  case txEmitPayload => obtain ⟨-, rfl⟩ := exec_txEmitPayload_next h; rfl
  case txEmitChecksum => obtain rfl := exec_txEmitChecksum_next h; rfl
  case txEmitEnd => obtain rfl := exec_txEmitEnd_next h; rfl

/-- A wait check moves the phase, and at a timeout the retry counter (R150). -/
theorem waitCheck_tx (d : Nat) (s : State) :
    (waitCheck d s).tx = { s.tx with phase := (waitCheck d s).tx.phase } ∨
      d ≤ s.clock ∧ (waitCheck d s).tx = { s.tx with retry := satInc s.tx.retry, phase := .emitStart } := by
  obtain ⟨-, -, e⟩ | ⟨-, hd, e⟩ | ⟨-, -, e⟩ := waitCheck_eq d s <;> rw [e]
  · exact .inl rfl
  · exact .inr ⟨hd, rfl⟩
  · exact .inl rfl

/-- A wait step without a timeout leaves the retry counter; one with a timeout has reached the deadline (R148, R149). -/
theorem exec_wait_tx (hi : i.isWait = true) (h : exec i s = .next t) :
    t.tx = { s.tx with deadline := t.tx.deadline, phase := t.tx.phase } ∨
      t.tx.deadline ≤ s.clock ∧
        t.tx = { s.tx with deadline := t.tx.deadline, retry := satInc s.tx.retry, phase := .emitStart } := by
  cases i <;> cases hi
  case txWaitEntry =>
    obtain ⟨-, rfl⟩ := exec_txWaitEntry_next h
    obtain e | ⟨hd, e⟩ := waitCheck_tx (s.clock + s.params.ackWaitPeriod)
      { s with tx := { s.tx with deadline := s.clock + s.params.ackWaitPeriod }, out := StepOut.zero }
    · exact .inl (by rw [e])
    · exact .inr (by rw [e]; exact ⟨hd, rfl⟩)
  case txWait =>
    obtain rfl := exec_txWait_next h
    obtain e | ⟨hd, e⟩ := waitCheck_tx s.tx.deadline { s with out := StepOut.zero }
    · exact .inl (by rw [e])
    · exact .inr (by rw [e]; exact ⟨hd, rfl⟩)

theorem exec_txWait_deadline (h : exec .txWait s = .next t) : t.tx.deadline = s.tx.deadline := by
  obtain rfl := exec_txWait_next h
  obtain e | ⟨-, e⟩ := waitCheck_tx s.tx.deadline { s with out := StepOut.zero } <;> rw [e]

/-- What a sender step may write of the sender: the latched payload, its length and its checksum stay. -/
theorem exec_sender_tx (hi : i.isSender = true) (h : exec i s = .next t) :
    t.tx.len = s.tx.len ∧ t.tx.txbuf = s.tx.txbuf ∧ t.tx.chk = s.tx.chk ∧
      (i.isWait = false → t.tx.retry = s.tx.retry) ∧ (i ≠ .txWaitEntry → t.tx.deadline = s.tx.deadline) := by
  obtain ⟨he, -⟩ | ⟨hw, -⟩ | ⟨hd, st, rfl⟩ := exec_sender_next hi h
  · rw [exec_emission_tx he h]
    exact ⟨rfl, rfl, rfl, fun _ => rfl, fun _ => rfl⟩
  · have hdeadline : i ≠ .txWaitEntry → t.tx.deadline = s.tx.deadline := by
      intro hne
      cases i <;> cases hw
      · exact absurd rfl hne
      · exact exec_txWait_deadline h
    have hno : i.isWait = false → t.tx.retry = s.tx.retry := fun hf => absurd hw (by simp [hf])
    obtain e | ⟨-, e⟩ := exec_wait_tx hw h <;> exact ⟨by rw [e], by rw [e], by rw [e], hno, hdeadline⟩
  · exact ⟨rfl, rfl, rfl, fun _ => rfl, fun _ => rfl⟩

/-- An emission leaves REV, a wait step FWD (R142). -/
theorem exec_sender_slots (hi : i.isSender = true) (h : exec i s = .next t) :
    (i.isEmission = false → t.fwd = s.fwd) ∧ (i.isWait = false → t.rev = s.rev) := by
  obtain ⟨he, b, tx, rfl⟩ | ⟨hw, tx, evs, st, rfl⟩ | ⟨-, st, rfl⟩ := exec_sender_next hi h
  · exact ⟨fun hf => absurd he (by simp [hf]), fun _ => rfl⟩
  · exact ⟨fun _ => rfl, fun hf => absurd hw (by simp [hf])⟩
  · exact ⟨fun _ => rfl, fun _ => rfl⟩

/-- The environment's moves write the channel and the clock only (R182 to R186). -/
theorem exec_environment_next (hr : i.isReceiver = false) (hs : i.isSender = false) (hreset : i ≠ .reset)
    (hstart : i.isStart = false) (h : exec i s = .next t) :
    t = { s with fwd := t.fwd, rev := t.rev, clock := t.clock, out := StepOut.zero } ∧
      (i ≠ .envTakeFwd → i.isPutFwd = false → t.fwd = s.fwd) ∧
      (i ≠ .envTakeRev → i.isPutRev = false → t.rev = s.rev) := by
  obtain rfl | ⟨len, p, rfl⟩ | rfl | ⟨b, rfl⟩ | rfl | ⟨b, rfl⟩ | rfl := command_of_no_agent hr hs
  · exact absurd rfl hreset
  · cases hstart
  · obtain ⟨-, rfl⟩ := exec_tick_next h
    exact ⟨rfl, fun _ _ => rfl, fun _ _ => rfl⟩
  · obtain rfl := exec_envPutFwd_next h
    exact ⟨rfl, nofun, fun _ _ => rfl⟩
  · obtain rfl := exec_envTakeFwd_next h
    exact ⟨rfl, fun hne => absurd rfl hne, fun _ _ => rfl⟩
  · obtain rfl := exec_envPutRev_next h
    exact ⟨rfl, fun _ _ => rfl, nofun⟩
  · obtain rfl := exec_envTakeRev_next h
    exact ⟨rfl, fun _ _ => rfl, fun hne => absurd rfl hne⟩

/-- Only TICK moves the clock (R40). -/
theorem exec_next_clock (h : exec i s = .next t) : t.clock = if i = .tick then s.clock + 1 else s.clock := by
  obtain ⟨-, hclock, -⟩ := onlyTickMovesTheClock
  exact hclock i s t h

/-- TX_START writes the latched payload, the sender's counters and phase, the trace, or the fault register (R141). -/
theorem exec_txStart_keeps {len : Byte} {p : List Byte} (h : exec (.txStart len p) s = .next t) :
    t = { s with
      tx := { t.tx with deadline := s.tx.deadline }, trace := t.trace, fault := t.fault, out := StepOut.zero } := by
  obtain ⟨-, rfl⟩ | ⟨-, -, rfl⟩ | ⟨-, -, -, -, rfl⟩ := exec_txStart_next h <;> rfl

end Writers

/-- Settles O39: a case split on the group of the operation, and for a command on RESET, TX_START and the environment. -/
theorem eachRegisterHasItsWriters : Obligations.EachRegisterHasItsWriters := by
  intro i s t h
  have hclock : i ≠ .tick → t.clock = s.clock := fun hne => by rw [exec_next_clock h, if_neg hne]
  have hfault : i.isStart = false → t.fault = s.fault := fun hf => exec_next_fault hf h
  cases hr : i.isReceiver with
  | true =>
    obtain ⟨htx, hparams, hsched, hdraws⟩ := exec_receiver_keeps hr h
    have hresult : i ≠ .rxAwaitEnd → (t.rbuf = s.rbuf ∧ t.rlen = s.rlen) ∧ t.rev = s.rev := by
      intro hne
      obtain rfl | ⟨rx, ev, rfl⟩ := exec_receiver_silent hr (exec_receiver_put hr hne h) h <;> exact ⟨⟨rfl, rfl⟩, rfl⟩
    refine ⟨nofun, fun hne _ => (hresult hne).1, ?_, ?_, ?_, ?_, nofun,
      fun hne _ _ _ => (hresult hne).2, hclock, hfault, hparams, hsched, fun _ => hdraws⟩ <;> simp [htx]
  | false =>
    cases hs : i.isSender with
    | true =>
      obtain ⟨hrx, hrbuf, hrlen, hparams, hsched, hdraws⟩ := exec_sender_keeps hs h
      obtain ⟨hlen, htxbuf, hchk, hretry, hdeadline⟩ := exec_sender_tx hs h
      obtain ⟨hfwd, hrev⟩ := exec_sender_slots hs h
      exact ⟨fun _ _ => hrx, fun _ _ => ⟨hrbuf, hrlen⟩, fun _ _ => ⟨hlen, htxbuf, hchk⟩, fun hw _ _ => hretry hw, nofun,
        fun hne _ => hdeadline hne, fun _ he _ _ => hfwd he, fun _ hw _ _ => hrev hw, hclock, hfault, hparams, hsched,
        fun _ => hdraws⟩
    | false =>
      by_cases hreset : i = .reset
      · subst hreset
        obtain rfl := exec_reset_next h
        simp
      cases hstart : i.isStart with
      | true =>
        obtain ⟨len, p, rfl⟩ := exists_txStart_of_isStart hstart
        rw [exec_txStart_keeps h]
        simp
      | false =>
        obtain ⟨e, hfwd, hrev⟩ := exec_environment_next hr hs hreset hstart h
        have htx : t.tx = s.tx := by rw [e]
        refine ⟨fun _ _ => by rw [e], fun _ _ => by rw [e]; exact ⟨rfl, rfl⟩, ?_, ?_, ?_, ?_,
          fun _ _ hne hp => hfwd hne hp, fun _ _ hne hp => hrev hne hp, hclock, fun _ => hfault hstart,
          by rw [e], by rw [e], fun _ => by rw [e]⟩ <;> simp [htx]

/-- Settles O41: of the operations left only a wait step may write the counter, and only at a timeout. -/
theorem retryCountsTimeouts : Obligations.RetryCountsTimeouts := by
  intro i s t h hreset hstart
  cases hw : i.isWait with
  | false =>
    obtain ⟨-, -, -, hretry, -⟩ := eachRegisterHasItsWriters i s t h
    have hkept : t.tx.retry = s.tx.retry := hretry hw hstart hreset
    exact ⟨by rw [hkept], fun hne => absurd hkept hne⟩
  | true =>
    obtain e | ⟨hd, e⟩ := exec_wait_tx hw h
    · have hkept : t.tx.retry = s.tx.retry := by rw [e]
      exact ⟨by rw [hkept], fun hne => absurd hkept hne⟩
    · have hretry : t.tx.retry = satInc s.tx.retry := by rw [e]
      have hphase : t.tx.phase = .emitStart := by rw [e]
      rw [hretry, satInc_eq]
      split_ifs with hmax
      · simp [hmax]
      · have hsucc : (s.tx.retry + 1).toNat = s.tx.retry.toNat + 1 := by bv_omega
        exact ⟨by omega, fun _ => ⟨rfl, hsucc, hd, hphase⟩⟩

/-- Settles O43: without an ACK a receiver step takes a byte at most. -/
theorem rejectionsAreSilent : Obligations.RejectionsAreSilent := by
  intro i s t h hr hput
  obtain rfl | ⟨rx, ev, rfl⟩ := exec_receiver_silent hr hput h <;> exact ⟨rfl, rfl, rfl, rfl, rfl, rfl⟩

/-! ### Events (R205) -/

/-- A wait check records what it took from REV and that it timed out, or the ACK (R150). -/
theorem waitCheck_trace (d : Nat) (s : State) :
    ∃ evs : List Event, (waitCheck d s).trace = s.trace ++ evs ∧ evs.length ≤ 2 := by
  have hdisc : (discarded s).length ≤ 1 := by
    unfold discarded
    split <;> simp
  obtain ⟨-, -, e⟩ | ⟨-, -, e⟩ | ⟨-, -, e⟩ := waitCheck_eq d s <;> rw [e]
  · exact ⟨[.txAck], rfl, by simp⟩
  · exact ⟨discarded s ++ [.txTimeout], rfl, by simpa using hdisc⟩
  · exact ⟨discarded s, rfl, by omega⟩

theorem exec_wait_trace {i : Instr} {s t : State} (hi : i.isWait = true) (h : exec i s = .next t) :
    ∃ evs : List Event, t.trace = s.trace ++ evs ∧ evs.length ≤ 2 := by
  cases i <;> cases hi
  case txWaitEntry =>
    obtain ⟨-, rfl⟩ := exec_txWaitEntry_next h
    exact waitCheck_trace _ _
  case txWait =>
    obtain rfl := exec_txWait_next h
    exact waitCheck_trace _ _

/-- Settles O47: one event of a receiver that takes a byte, of an emission or of TX_START, two at most of a wait step. -/
theorem traceOnlyGrows : Obligations.TraceOnlyGrows := by
  intro i s t h
  cases hr : i.isReceiver with
  | true =>
    by_cases hno : i = .rxNobyte
    · subst hno
      obtain rfl := exec_rxNobyte_next h
      exact ⟨[], by simp⟩
    · obtain rfl | ⟨rx, ev, rfl⟩ | ⟨rx, ev, rbuf, rlen, rfl⟩ := exec_receiver_next hr h
      · exact ⟨[], by simp⟩
      · exact ⟨[ev], rfl, by simp, nofun, fun e => absurd e hno⟩
      · exact ⟨[ev], rfl, by simp, nofun, fun e => absurd e hno⟩
  | false =>
    have hno : i ≠ .rxNobyte := by rintro rfl; cases hr
    cases hs : i.isSender with
    | true =>
      obtain ⟨he, b, tx, rfl⟩ | ⟨hw, -⟩ | ⟨-, st, rfl⟩ := exec_sender_next hs h
      · exact ⟨[.txByte b], rfl, by simp, by simp [he], fun e => absurd e hno⟩
      · obtain ⟨evs, htrace, hlen⟩ := exec_wait_trace hw h
        exact ⟨evs, htrace, hlen, by simp [hw], fun e => absurd e hno⟩
      · exact ⟨[], by simp⟩
    | false =>
      by_cases hreset : i = .reset
      · subst hreset
        obtain rfl := exec_reset_next h
        exact ⟨[], by simp⟩
      cases hstart : i.isStart with
      | true =>
        obtain htrace | ⟨len, htrace⟩ := exec_command_trace hr hs h
        · exact ⟨[], by simp [htrace]⟩
        · exact ⟨[.txStart len], htrace, by simp, nofun, fun e => absurd e hno⟩
      | false => exact ⟨[], by rw [(exec_environment_next hr hs hreset hstart h).1]; simp⟩

/-! ### Phases and slots an operation does not touch -/

theorem lengthBranch_ne_awaitEnd (cap : Nat) (b : Byte) : (lengthBranch cap b).1 ≠ .awaitEnd := by
  unfold lengthBranch
  split_ifs <;> simp

/-- Of the receiver's steps only the match of RX.VERIFY_CHECKSUM enters AwaitEnd (R118). -/
theorem exec_receiver_enters_awaitEnd {i : Instr} {s t : State} (hr : i.isReceiver = true) (h : exec i s = .next t)
    (hend : t.rx.phase = .awaitEnd) (hbefore : s.rx.phase ≠ .awaitEnd) :
    i = .rxVerifyChecksum ∧ s.fwd.data = s.rx.acc := by
  cases i <;> cases hr
  case rxNobyte =>
    obtain rfl := exec_rxNobyte_next h
    exact absurd hend hbefore
  case rxAwaitStart =>
    obtain ⟨-, rfl⟩ | ⟨-, rfl⟩ := exec_rxAwaitStart_next h
    · cases hend
    · exact absurd hend hbefore
  case rxReadLength =>
    obtain rfl := exec_rxReadLength_next h
    exact absurd hend (lengthBranch_ne_awaitEnd _ _)
  case rxReadPayload =>
    obtain ⟨-, rfl⟩ := exec_rxReadPayload_next h
    dsimp only at hend
    split_ifs at hend
    exact absurd hend hbefore
  case rxVerifyChecksum =>
    obtain ⟨hd, -⟩ | ⟨-, rfl⟩ := exec_rxVerifyChecksum_next h
    · exact ⟨rfl, hd⟩
    · cases hend
  case rxAwaitEnd => obtain ⟨-, -, -, rfl⟩ | ⟨-, rfl⟩ := exec_rxAwaitEnd_next h <;> cases hend

/-- Settles O48: of the writers of `rx.phase`, RESET writes AwaitStart, and the receiver's steps are the lemma above. -/
theorem awaitEndIsEnteredOnlyOnAMatch : Obligations.AwaitEndIsEnteredOnlyOnAMatch := by
  intro i s t h hend hbefore
  cases hr : i.isReceiver with
  | true => exact exec_receiver_enters_awaitEnd hr h hend hbefore
  | false =>
    by_cases hreset : i = .reset
    · subst hreset
      obtain rfl := exec_reset_next h
      cases hend
    · obtain ⟨hrx, -⟩ := eachRegisterHasItsWriters i s t h
      exact absurd (hrx hr hreset ▸ hend) hbefore

/-- Settles O49: an emission, IDLE and DONE make the same of a state whatever its REV. -/
theorem onlyWaitStepsExamineRev : Obligations.OnlyWaitStepsExamineRev := by
  intro i s t r h hs hw
  refine ⟨(exec_sender_slots hs h).2 hw, ?_⟩
  have he : Enabled { s with rev := r } := exec_next_enabled (s := s) h
  cases i <;> simp [Instr.isSender, Instr.isEmission, Instr.isWait] at hs hw
  case txIdle =>
    obtain rfl := exec_txIdle_next h
    exact (idleAndDoneChangeNothing _ he).1
  case txEmitStart =>
    obtain rfl := exec_txEmitStart_next h
    exact exec_txEmitStart_of_enabled he
  case txEmitLength =>
    cases (exec_txEmitLength_of_enabled (exec_next_enabled h)).symm.trans h
    exact exec_txEmitLength_of_enabled he
  case txEmitPayload =>
    obtain ⟨hi, rfl⟩ := exec_txEmitPayload_next h
    exact exec_txEmitPayload_of_enabled he (List.getElem?_eq_getElem hi)
  case txEmitChecksum =>
    obtain rfl := exec_txEmitChecksum_next h
    exact exec_txEmitChecksum_of_enabled he
  case txEmitEnd =>
    obtain rfl := exec_txEmitEnd_next h
    exact exec_txEmitEnd_of_enabled he
  case txDone =>
    obtain rfl := exec_txDone_next h
    exact (idleAndDoneChangeNothing _ he).2

/-- Settles O50: with FWD empty the receiver finds no byte, and the sender is at IDLE or DONE. -/
theorem quiescentAgentsChangeNothing : Obligations.QuiescentAgentsChangeNothing := by
  intro s m rest hq hp hs hm
  obtain ⟨hf, hfwd, -, -, htx⟩ := hq
  have he : Enabled { s with sched := rest } := ⟨hf, hp⟩
  obtain rfl | rfl := hm
  · rw [step_stepRx hf hs, hfwd]
    exact ⟨_, nobyteReturnsWaitingAndChangesNothing _ he⟩
  · rw [step_stepTx hf hs]
    obtain hidle | hdone := htx
    · rw [hidle]
      exact ⟨_, (idleAndDoneChangeNothing _ he).1⟩
    · rw [hdone]
      exact ⟨_, (idleAndDoneChangeNothing _ he).2⟩

end Sys2Proof.Machine

namespace Sys2Proof.Machine

/-! ## Proofs: the invariant of reachable states (spec/10_state.md R50)

The operation a step executes is a handler the selector picked, RX.NOBYTE, or a command. A receiver's handler has to show
the receiver's clauses only, a sender's handler the sender's and the deadline's. -/

section Invariant

variable {s t : State} {i : Instr}

/-! ### What a step executes -/

/-- The operation is one a move can be dispatched to in the state `s` (R88 to R90). -/
inductive Dispatched (s : State) : Instr → Prop where
  | nobyte : Dispatched s .rxNobyte
  | receiver (h : s.fwd.avail = true) : Dispatched s s.rx.phase.handler
  | sender : Dispatched s s.tx.phase.handler
  | command {i : Instr} (hr : i.isReceiver = false) (hs : i.isSender = false) : Dispatched s i

/-- A command decodes to no agent's handler (R90). -/
theorem decodeCommand_no_agent {code : BitVec 4} {ops : List Byte} (h : decodeCommand code ops = .ok i) :
    i.isReceiver = false ∧ i.isSender = false := by
  have hencode := (encodeOfDecodedCommandIsTheCommand code ops i h).1
  cases i
  case reset | txStart | tick | envPutFwd | envTakeFwd | envPutRev | envTakeRev => exact ⟨rfl, rfl⟩
  all_goals cases hencode

theorem dispatched_of_decode {m : Move} (h : decode (encodedMove s m) = .ok i) : Dispatched s i := by
  cases m with
  | stepRx =>
    cases (decodeSelector_rxSelector s).symm.trans h
    cases ha : s.fwd.avail with
    | true => exact .receiver ha
    | false => exact .nobyte
  | stepTx =>
    cases (decodeSelector_txSelector s).symm.trans h
    exact .sender
  | command code ops =>
    obtain ⟨hr, hs⟩ := decodeCommand_no_agent h
    exact .command hr hs

/-! ### The invariant by registers -/

theorem ReceiverInv.congr (h : ReceiverInv s) (hrx : t.rx = s.rx) (hrlen : t.rlen = s.rlen)
    (hparams : t.params = s.params) : ReceiverInv t := by
  obtain ⟨readLength, readPayload, collected, acc, rlen⟩ := h
  refine ⟨?_, ?_, ?_, ?_, ?_⟩ <;> simpa only [hrx, hrlen, hparams]

theorem SenderInv.congr (h : SenderInv s) (htx : t.tx = s.tx) (hparams : t.params = s.params) : SenderInv t := by
  obtain ⟨latched, emitLength, emitPayload, emitted⟩ := h
  refine ⟨?_, ?_, ?_, ?_⟩ <;> simpa only [htx, hparams]

/-- The clauses after a move that leaves the sender and the clock. -/
theorem Inv.of_receiver (hi : Inv s) (hparams : t.params = s.params) (htx : t.tx = s.tx) (hclock : t.clock = s.clock)
    (hpbuf : t.rx.pbuf.length = s.rx.pbuf.length) (hrbuf : t.rbuf.length = s.rbuf.length) (hr : ReceiverInv t) :
    Inv t := by
  obtain ⟨hp, ⟨h1, h2, h3⟩, -, hs, ⟨start, fits, deadline⟩⟩ := hi
  exact ⟨by rwa [hparams], ⟨by rw [hpbuf, hparams, h1], by rw [hrbuf, hparams, h2], by rw [htx, hparams, h3]⟩, hr,
    hs.congr htx hparams, ⟨by rwa [hparams, hclock], by rwa [hparams, hclock], by rwa [htx, hparams, hclock]⟩⟩

/-- The clauses after a move that leaves the receiver and the result. -/
theorem Inv.of_sender (hi : Inv s) (hparams : t.params = s.params) (hrx : t.rx = s.rx) (hrbuf : t.rbuf = s.rbuf)
    (hrlen : t.rlen = s.rlen) (htxbuf : t.tx.txbuf.length = s.tx.txbuf.length) (hs : SenderInv t) (hc : ClockInv t) :
    Inv t := by
  obtain ⟨hp, ⟨h1, h2, h3⟩, hr, -, -⟩ := hi
  exact ⟨by rwa [hparams], ⟨by rw [hrx, hparams, h1], by rw [hrbuf, hparams, h2], by rw [htxbuf, hparams, h3]⟩,
    hr.congr hrx hrlen hparams, hs, hc⟩

/-- The invariant reads the parameters, the block's registers and the clock only. -/
theorem Inv.of_registers (hi : Inv s) (hparams : t.params = s.params) (hrx : t.rx = s.rx) (hrbuf : t.rbuf = s.rbuf)
    (hrlen : t.rlen = s.rlen) (htx : t.tx = s.tx) (hclock : t.clock = s.clock) : Inv t :=
  hi.of_receiver hparams htx hclock (by rw [hrx]) (by rw [hrbuf]) (hi.receiver.congr hrx hrlen hparams)

/-! ### The receiver's handlers -/

/-- One byte more in `pbuf` is one byte more in the fold (R115). -/
theorem checksum_take_set {buf : Buffer} {k : Nat} (hk : k < buf.length) (b : Byte) :
    checksum ((buf.set k b).take (k + 1)) = checksum (buf.take k) ^^^ b := by
  rw [writeBuf_take (writeBuf_eq_some.mpr ⟨hk, rfl⟩), checksum_snoc]

/-- A byte counter below another does not wrap. -/
theorem toNat_succ_of_lt {c n : Byte} (h : c.toNat < n.toNat) : (c + 1).toNat = c.toNat + 1 := by
  bv_omega

theorem receiverInv_of_awaitStart (hphase : t.rx.phase = .awaitStart) (hrlen : t.rlen.toNat ≤ t.params.cap) :
    ReceiverInv t :=
  ⟨by simp [hphase], by simp [hphase], by simp [hphase], by simp [hphase, RxPhase.inFrame], hrlen⟩

theorem receiverInv_of_readPayload (hphase : t.rx.phase = .readPayload)
    (hcount : t.rx.count.toNat < t.rx.expLen.toNat) (hcap : t.rx.expLen.toNat ≤ t.params.cap)
    (hacc : t.rx.acc = checksum (t.rx.pbuf.take t.rx.count.toNat)) (hrlen : t.rlen.toNat ≤ t.params.cap) :
    ReceiverInv t :=
  ⟨by simp [hphase], fun _ => ⟨by omega, hcap, hcount⟩, by simp [hphase], fun _ => hacc, hrlen⟩

theorem receiverInv_of_collected (hphase : t.rx.phase = .verifyChecksum ∨ t.rx.phase = .awaitEnd)
    (hcount : t.rx.count = t.rx.expLen) (hcap : t.rx.expLen.toNat ≤ t.params.cap)
    (hacc : t.rx.acc = checksum (t.rx.pbuf.take t.rx.count.toNat)) (hrlen : t.rlen.toNat ≤ t.params.cap) :
    ReceiverInv t := by
  refine ⟨?_, ?_, fun _ => ⟨hcount, hcap⟩, fun _ => hacc, hrlen⟩ <;>
    obtain hphase | hphase := hphase <;> simp [hphase]

/-- R113: what LENGTH leads to. -/
theorem receiverInv_readLength (hi : Inv s) (hp : s.rx.phase = .readLength) (h : exec .rxReadLength s = .next t) :
    ReceiverInv t := by
  obtain ⟨hcount, hacc⟩ := hi.receiver.readLength hp
  have hrlen := hi.receiver.rlen
  obtain rfl := exec_rxReadLength_next h
  have hfold : s.rx.acc = checksum (s.rx.pbuf.take s.rx.count.toNat) := by simp [hcount, hacc]
  by_cases hcap : s.params.cap < s.fwd.data.toNat
  · exact receiverInv_of_awaitStart (by simp [lengthBranch, hcap]) hrlen
  · by_cases hzero : s.fwd.data = 0
    · have hphase : (lengthBranch s.params.cap s.fwd.data).1 = .verifyChecksum := by simp [lengthBranch, hzero]
      exact receiverInv_of_collected (.inl hphase) (hcount.trans hzero.symm) (Nat.le_of_not_lt hcap) hfold hrlen
    · have hphase : (lengthBranch s.params.cap s.fwd.data).1 = .readPayload := by
        rw [lengthBranch, if_neg hcap, if_neg hzero]
      have hpos : s.rx.count.toNat < s.fwd.data.toNat := by rw [hcount]; bv_omega
      exact receiverInv_of_readPayload hphase hpos (Nat.le_of_not_lt hcap) hfold hrlen

/-- R115: one more byte is collected and folded. -/
theorem receiverInv_readPayload (hi : Inv s) (hp : s.rx.phase = .readPayload) (h : exec .rxReadPayload s = .next t) :
    ReceiverInv t := by
  obtain ⟨-, hcap, hcount⟩ := hi.receiver.readPayload hp
  have hacc := hi.receiver.acc (by rw [hp]; rfl)
  have hrlen := hi.receiver.rlen
  obtain ⟨hidx, rfl⟩ := exec_rxReadPayload_next h
  have hsucc := toNat_succ_of_lt hcount
  have hfold : s.rx.acc ^^^ s.fwd.data =
      checksum ((s.rx.pbuf.set s.rx.count.toNat s.fwd.data).take (s.rx.count + 1).toNat) := by
    rw [hsucc, checksum_take_set hidx, hacc]
  by_cases hlast : s.rx.count + 1 = s.rx.expLen
  · exact receiverInv_of_collected (.inl (if_pos hlast)) hlast hcap hfold hrlen
  · have hmore : s.rx.count.toNat + 1 ≠ s.rx.expLen.toNat := fun e => hlast (BitVec.eq_of_toNat_eq (hsucc.trans e))
    exact receiverInv_of_readPayload ((if_neg hlast).trans hp) (by dsimp only; omega) hcap hfold hrlen

/-- R117: the checksum matches, or the frame is dropped. -/
theorem receiverInv_verifyChecksum (hi : Inv s) (hp : s.rx.phase = .verifyChecksum)
    (h : exec .rxVerifyChecksum s = .next t) : ReceiverInv t := by
  obtain ⟨-, rfl⟩ | ⟨-, rfl⟩ := exec_rxVerifyChecksum_next h
  · obtain ⟨hcount, hcap⟩ := hi.receiver.collected (.inl hp)
    exact receiverInv_of_collected (.inr rfl) hcount hcap (hi.receiver.acc (by rw [hp]; rfl)) hi.receiver.rlen
  · exact receiverInv_of_awaitStart rfl hi.receiver.rlen

/-- R112, R119: AwaitStart looks for START; AwaitEnd accepts or drops the frame. -/
theorem exec_rxHandler_keeps_receiverInv (hi : Inv s) (h : exec s.rx.phase.handler s = .next t) : ReceiverInv t := by
  cases hp : s.rx.phase with
  | awaitStart =>
    rw [hp] at h
    obtain ⟨-, rfl⟩ | ⟨-, rfl⟩ := exec_rxAwaitStart_next h
    · exact ⟨fun _ => ⟨rfl, rfl⟩, nofun, by simp, nofun, hi.receiver.rlen⟩
    · exact receiverInv_of_awaitStart hp hi.receiver.rlen
  | readLength => exact receiverInv_readLength hi hp (by rwa [hp] at h)
  | readPayload => exact receiverInv_readPayload hi hp (by rwa [hp] at h)
  | verifyChecksum => exact receiverInv_verifyChecksum hi hp (by rwa [hp] at h)
  | awaitEnd =>
    rw [hp] at h
    obtain ⟨-, -, -, rfl⟩ | ⟨-, rfl⟩ := exec_rxAwaitEnd_next h
    · exact receiverInv_of_awaitStart rfl (hi.receiver.collected (.inr hp)).2
    · exact receiverInv_of_awaitStart rfl hi.receiver.rlen

/-- A receiver step keeps the length of its buffers (R60). -/
theorem exec_receiver_buffers (hr : i.isReceiver = true) (h : exec i s = .next t) :
    t.rx.pbuf.length = s.rx.pbuf.length ∧ t.rbuf.length = s.rbuf.length := by
  cases i <;> cases hr
  case rxNobyte => obtain rfl := exec_rxNobyte_next h; exact ⟨rfl, rfl⟩
  case rxAwaitStart => obtain ⟨-, rfl⟩ | ⟨-, rfl⟩ := exec_rxAwaitStart_next h <;> exact ⟨rfl, rfl⟩
  case rxReadLength => obtain rfl := exec_rxReadLength_next h; exact ⟨rfl, rfl⟩
  case rxReadPayload => obtain ⟨-, rfl⟩ := exec_rxReadPayload_next h; exact ⟨List.length_set .., rfl⟩
  case rxVerifyChecksum => obtain ⟨-, rfl⟩ | ⟨-, rfl⟩ := exec_rxVerifyChecksum_next h <;> exact ⟨rfl, rfl⟩
  case rxAwaitEnd =>
    obtain ⟨-, hp, hr, rfl⟩ | ⟨-, rfl⟩ := exec_rxAwaitEnd_next h
    · exact ⟨rfl, copyPrefix_length (copyPrefix_eq_some.mpr ⟨⟨hp, hr⟩, rfl⟩)⟩
    · exact ⟨rfl, rfl⟩

theorem exec_rxHandler_keeps_inv (hi : Inv s) (h : exec s.rx.phase.handler s = .next t) : Inv t := by
  have hr := s.rx.phase.handler_isReceiver
  obtain ⟨htx, hparams, -, -⟩ := exec_receiver_keeps hr h
  obtain ⟨hpbuf, hrbuf⟩ := exec_receiver_buffers hr h
  exact hi.of_receiver hparams htx (exec_receiver_frame hr h).1 hpbuf hrbuf (exec_rxHandler_keeps_receiverInv hi h)

/-! ### The sender's handlers -/

/-- A sender step that keeps the latched payload has only its index to show. -/
theorem senderInv_of_latched (hs : SenderInv s) (hne : s.tx.phase ≠ .idle) (hparams : t.params = s.params)
    (hlen : t.tx.len = s.tx.len) (htxbuf : t.tx.txbuf = s.tx.txbuf) (hchk : t.tx.chk = s.tx.chk)
    (emitLength : t.tx.phase = .emitLength → t.tx.idx = 0)
    (emitPayload : t.tx.phase = .emitPayload → t.tx.idx.toNat < t.tx.len.toNat)
    (emitted : t.tx.phase.afterPayload = true → t.tx.idx = t.tx.len) : SenderInv t :=
  ⟨fun _ => by rw [hlen, htxbuf, hchk, hparams]; exact hs.latched hne, emitLength, emitPayload, emitted⟩

/-- R144: a length of 0 skips the payload. -/
theorem senderInv_emitLength (hs : SenderInv s) (hp : s.tx.phase = .emitLength) (h : exec .txEmitLength s = .next t) :
    SenderInv t := by
  have hidx := hs.emitLength hp
  have hne : s.tx.phase ≠ .idle := by simp [hp]
  obtain rfl := exec_txEmitLength_next h
  by_cases hpos : 0 < s.tx.len.toNat
  · have hphase : (if 0 < s.tx.len.toNat then TxPhase.emitPayload else .emitChecksum) = .emitPayload := if_pos hpos
    rw [hphase]
    exact senderInv_of_latched hs hne rfl rfl rfl rfl nofun (fun _ => by simpa [emitted, hidx] using hpos) nofun
  · have hphase : (if 0 < s.tx.len.toNat then TxPhase.emitPayload else .emitChecksum) = .emitChecksum := if_neg hpos
    have hzero : s.tx.len = 0 := by bv_omega
    rw [hphase]
    exact senderInv_of_latched hs hne rfl rfl rfl rfl nofun nofun (fun _ => hidx.trans hzero.symm)

/-- R145: the index moves on until the whole payload is put. -/
theorem senderInv_emitPayload (hs : SenderInv s) (hp : s.tx.phase = .emitPayload) (h : exec .txEmitPayload s = .next t) :
    SenderInv t := by
  have hidx := hs.emitPayload hp
  have hne : s.tx.phase ≠ .idle := by simp [hp]
  have hsucc := toNat_succ_of_lt hidx
  obtain ⟨-, rfl⟩ := exec_txEmitPayload_next h
  by_cases hlast : s.tx.idx + 1 = s.tx.len
  · rw [if_pos hlast]
    exact senderInv_of_latched hs hne rfl rfl rfl rfl nofun nofun fun _ => hlast
  · have hmore : s.tx.idx.toNat + 1 ≠ s.tx.len.toNat := fun e => hlast (BitVec.eq_of_toNat_eq (hsucc.trans e))
    rw [if_neg hlast, hp]
    exact senderInv_of_latched hs hne rfl rfl rfl rfl nofun (fun _ => by dsimp only [emitted]; omega) nofun

/-- A wait check leaves the whole payload emitted, or begins the next attempt (R150). -/
theorem waitCheck_keeps_senderInv (d : Nat) (hs : SenderInv s) (hp : s.tx.phase = .waitEntry ∨ s.tx.phase = .wait) :
    SenderInv (waitCheck d s) := by
  have hne : s.tx.phase ≠ .idle := by obtain hp | hp := hp <;> simp [hp]
  have hidx := hs.emitted (by obtain hp | hp := hp <;> simp [hp, TxPhase.afterPayload])
  obtain ⟨-, -, e⟩ | ⟨-, -, e⟩ | ⟨-, -, e⟩ := waitCheck_eq d s <;> rw [e]
  · exact senderInv_of_latched hs hne rfl rfl rfl rfl nofun nofun fun _ => hidx
  · exact senderInv_of_latched hs hne rfl rfl rfl rfl nofun nofun nofun
  · exact senderInv_of_latched hs hne rfl rfl rfl rfl nofun nofun fun _ => hidx

/-- The sender's clauses do not read the deadline, nor what a step drives. -/
theorem SenderInv.with_deadline (hs : SenderInv s) (d : Nat) (out : StepOut) :
    SenderInv { s with tx := { s.tx with deadline := d }, out := out } :=
  ⟨hs.latched, hs.emitLength, hs.emitPayload, hs.emitted⟩

theorem exec_txHandler_keeps_senderInv (hi : Inv s) (h : exec s.tx.phase.handler s = .next t) : SenderInv t := by
  have hs := hi.sender
  cases hp : s.tx.phase <;> rw [hp] at h
  case idle =>
    obtain rfl := exec_txIdle_next h
    exact hs.congr rfl rfl
  case emitStart =>
    obtain rfl := exec_txEmitStart_next h
    exact senderInv_of_latched hs (by simp [hp]) rfl rfl rfl rfl (fun _ => rfl) nofun nofun
  case emitLength => exact senderInv_emitLength hs hp h
  case emitPayload => exact senderInv_emitPayload hs hp h
  case emitChecksum =>
    obtain rfl := exec_txEmitChecksum_next h
    exact senderInv_of_latched hs (by simp [hp]) rfl rfl rfl rfl nofun nofun fun _ => hs.emitted (by rw [hp]; rfl)
  case emitEnd =>
    obtain rfl := exec_txEmitEnd_next h
    exact senderInv_of_latched hs (by simp [hp]) rfl rfl rfl rfl nofun nofun fun _ => hs.emitted (by rw [hp]; rfl)
  case waitEntry =>
    obtain ⟨-, rfl⟩ := exec_txWaitEntry_next h
    exact waitCheck_keeps_senderInv _ (hs.with_deadline _ _) (.inl hp)
  case wait =>
    obtain rfl := exec_txWait_next h
    exact waitCheck_keeps_senderInv _ (hs.with_deadline _ _) (.inr hp)
  case done =>
    obtain rfl := exec_txDone_next h
    exact hs.congr rfl rfl

/-- A sender step leaves the deadline, or sets it a wait period ahead (R148). -/
theorem exec_sender_deadline (hs : i.isSender = true) (h : exec i s = .next t) :
    t.tx.deadline = s.tx.deadline ∨ t.tx.deadline = s.clock + s.params.ackWaitPeriod := by
  by_cases hw : i = .txWaitEntry
  · subst hw
    obtain ⟨-, rfl⟩ := exec_txWaitEntry_next h
    refine .inr ?_
    obtain e | ⟨-, e⟩ := waitCheck_tx (s.clock + s.params.ackWaitPeriod)
      { s with tx := { s.tx with deadline := s.clock + s.params.ackWaitPeriod }, out := StepOut.zero } <;> rw [e]
  · obtain ⟨-, -, -, -, hdeadline⟩ := exec_sender_tx hs h
    exact .inl (hdeadline hw)

theorem exec_txHandler_keeps_inv (hi : Inv s) (h : exec s.tx.phase.handler s = .next t) : Inv t := by
  have hs := s.tx.phase.handler_isSender
  obtain ⟨hrx, hrbuf, hrlen, hparams, -, -⟩ := exec_sender_keeps hs h
  have hclock := (exec_sender_frame hs h).1
  obtain ⟨-, htxbuf, -⟩ := exec_sender_tx hs h
  obtain ⟨start, fits, deadline⟩ := hi.clock
  refine hi.of_sender hparams hrx hrbuf hrlen (by rw [htxbuf]) (exec_txHandler_keeps_senderInv hi h)
    ⟨by rwa [hparams, hclock], by rwa [hparams, hclock], ?_⟩
  obtain hd | hd := exec_sender_deadline hs h <;> rw [hd, hclock, hparams]
  exact deadline

/-! ### Commands -/

theorem exec_txStart_keeps_inv {len : Byte} {p : List Byte} (hi : Inv s) (h : exec (.txStart len p) s = .next t) :
    Inv t := by
  obtain ⟨-, rfl⟩ | ⟨-, -, rfl⟩ | ⟨-, hcap, hp, hb, rfl⟩ := exec_txStart_next h
  · exact hi.of_registers rfl rfl rfl rfl rfl rfl
  · exact hi.of_registers rfl rfl rfl rfl rfl rfl
  · have hcopy : copyPrefix len.toNat p s.tx.txbuf = some (p.take len.toNat ++ s.tx.txbuf.drop len.toNat) :=
      copyPrefix_eq_some.mpr ⟨⟨hp, hb⟩, rfl⟩
    refine hi.of_sender rfl rfl rfl rfl (copyPrefix_length hcopy) ⟨fun _ => ⟨hcap, ?_⟩, nofun, nofun, nofun⟩
      ⟨hi.clock.start, hi.clock.fits, hi.clock.deadline⟩
    exact congrArg checksum (copyPrefix_take hcopy).symm

/-- RESET keeps the parameters and the clock, and gives the block its reset values (R230, R52). -/
theorem resetBlock_inv {dp dt : Buffer} (hp : dp.length = s.params.cap) (ht : dt.length = s.params.cap)
    (hparams : paramsOk s.params = true) (hstart : s.params.t0 ≤ s.clock) (hfits : tickFits s.params s.clock = true) :
    Inv (resetBlock dp dt s) :=
  ⟨hparams, resetBlock_memory_wf hp ht, receiverInv_of_awaitStart rfl (Nat.zero_le _),
    ⟨fun h => absurd rfl h, nofun, nofun, nofun⟩, ⟨hstart, hfits, Nat.zero_le _⟩⟩

theorem exec_command_keeps_inv (hr : i.isReceiver = false) (hs : i.isSender = false) (hi : Inv s)
    (h : exec i s = .next t) : Inv t := by
  obtain ⟨start, fits, deadline⟩ := hi.clock
  obtain rfl | ⟨len, p, rfl⟩ | rfl | ⟨b, rfl⟩ | rfl | ⟨b, rfl⟩ | rfl := command_of_no_agent hr hs
  · rw [exec_reset_next h]
    exact resetBlock_inv (drawBytes_length _ _) (drawBytes_length _ _) hi.params start fits
  · exact exec_txStart_keeps_inv hi h
  · obtain ⟨hfits, rfl⟩ := exec_tick_next h
    exact hi.of_sender rfl rfl rfl rfl rfl (hi.sender.congr rfl rfl)
      ⟨Nat.le_succ_of_le start, hfits, by dsimp only; omega⟩
  · obtain rfl := exec_envPutFwd_next h
    exact hi.of_registers rfl rfl rfl rfl rfl rfl
  · obtain rfl := exec_envTakeFwd_next h
    exact hi.of_registers rfl rfl rfl rfl rfl rfl
  · obtain rfl := exec_envPutRev_next h
    exact hi.of_registers rfl rfl rfl rfl rfl rfl
  · obtain rfl := exec_envTakeRev_next h
    exact hi.of_registers rfl rfl rfl rfl rfl rfl

/-! ### Every step -/

theorem exec_dispatched_keeps_inv (hd : Dispatched s i) (hi : Inv s) (h : exec i s = .next t) : Inv t := by
  cases hd with
  | nobyte =>
    obtain rfl := exec_rxNobyte_next h
    exact hi.of_registers rfl rfl rfl rfl rfl rfl
  | receiver => exact exec_rxHandler_keeps_inv hi h
  | sender => exact exec_txHandler_keeps_inv hi h
  | command hr hs => exact exec_command_keeps_inv hr hs hi h

/-- The invariant does not read the schedule. -/
theorem Inv.with_sched (hi : Inv s) (ms : List Move) : Inv { s with sched := ms } :=
  hi.of_registers rfl rfl rfl rfl rfl rfl

end Invariant

/-- Settles O37: the operation a step executes is dispatched, and each kind of dispatched operation keeps the invariant. -/
theorem everyStepKeepsTheInvariant : Obligations.EveryStepKeepsTheInvariant := by
  intro s t hi h
  obtain ⟨-, -, rfl⟩ | ⟨m, rest, i, -, -, hd, hx, -⟩ := step_next h
  · exact hi
  · have hdispatched : Dispatched { s with sched := rest } i := dispatched_of_decode (m := m) (by cases m <;> exact hd)
    exact exec_dispatched_keeps_inv hdispatched (hi.with_sched rest) hx

/-- The block's part of the power-on state is that of RESET (R52, R53). -/
theorem inv_powerOn {p : Params} (h : paramsOk p = true) : Inv (State.powerOn p) := by
  have hfits : tickFits p p.t0 = true := by
    simp only [paramsOk, Bool.and_eq_true] at h
    exact h.2
  exact ⟨h, powerOn_memory_wf p, receiverInv_of_awaitStart rfl (Nat.zero_le _),
    ⟨fun hne => absurd rfl hne, nofun, nofun, nofun⟩, ⟨Nat.le_refl _, hfits, Nat.zero_le _⟩⟩

/-- Settles O38: at power-on the receiver is in AwaitStart, the sender in IDLE, and the clock at T0. -/
theorem powerOnHasTheInvariant : Obligations.PowerOnHasTheInvariant :=
  ⟨fun _ h => inv_powerOn h, inv_powerOn rfl⟩

end Sys2Proof.Machine

namespace Sys2Proof.Machine

/-! ## Proofs: the checksum, by its bytes (spec/40_codec.md R103, R105) -/

/-- The fold of a payload's first byte (R100). -/
theorem checksum_cons (b : Byte) (p : List Byte) : checksum (b :: p) = b ^^^ checksum p := by
  induction p using List.reverseRecOn with
  | nil => simp [checksum]
  | append_singleton p c ih => rw [← List.cons_append, checksum_snoc, checksum_snoc, ih, BitVec.xor_assoc]

/-- Settles O35: exclusive or is associative and commutative, so its fold is invariant under permutations. -/
theorem checksumIgnoresOrder : Obligations.ChecksumIgnoresOrder :=
  fun _ _ h => h.foldl_op_eq

/-- Replacing a byte takes the old one out of the fold and the new one in. -/
theorem checksum_set {p : List Byte} {k : Nat} (h : k < p.length) (b : Byte) :
    checksum (p.set k b) = checksum p ^^^ (p[k] ^^^ b) := by
  induction p generalizing k with
  | nil => cases h
  | cons c p ih =>
    cases k with
    | zero =>
      rw [List.set_cons_zero, checksum_cons, checksum_cons, List.getElem_cons_zero]
      calc b ^^^ checksum p = (c ^^^ c) ^^^ (checksum p ^^^ b) := by
            rw [BitVec.xor_self, BitVec.zero_xor, BitVec.xor_comm]
        _ = c ^^^ checksum p ^^^ (c ^^^ b) := by ac_rfl
    | succ k =>
      have hk : k < p.length := Nat.lt_of_succ_lt_succ h
      rw [List.set_cons_succ, checksum_cons, checksum_cons, ih hk, List.getElem_cons_succ, BitVec.xor_assoc]

/-- Settles O36: a changed byte enters the fold with `p[k] ^^^ b`, which is not 0; one mask on two bytes enters it
twice. -/
theorem checksumSeesOneChangedByte : Obligations.ChecksumSeesOneChangedByte := by
  constructor
  · intro p k b h hne e
    have hfold : checksum p ^^^ (p[k] ^^^ b) = checksum p ^^^ (b ^^^ b) := by
      rw [← checksum_set h, e, BitVec.xor_self, BitVec.xor_zero]
    exact hne ((BitVec.xor_left_inj b).mp ((BitVec.xor_right_inj _).mp hfold))
  · intro p j k mask hj hk hjk
    rw [checksum_set (by simpa using hk), checksum_set hj, List.getElem_set_ne hjk]
    calc checksum p ^^^ (p[j] ^^^ (p[j] ^^^ mask)) ^^^ (p[k] ^^^ (p[k] ^^^ mask))
        = checksum p ^^^ ((p[j] ^^^ p[j]) ^^^ (p[k] ^^^ p[k]) ^^^ (mask ^^^ mask)) := by ac_rfl
      _ = checksum p := by simp

end Sys2Proof.Machine

namespace Sys2Proof.Machine

/-! ## Proofs: the refusals (spec/60_exceptions.md R202)

`RefusedBy` lists what an operation refuses in a state in which a move is possible; `exec_refused` says that it is exactly
what `exec` refuses there. A refused step is then one of an encoding that decodes to nothing, or one of the list. -/

section Refusals

variable {s : State} {i : Instr} {r : Refusal}

/-! ### What an operation refuses -/

/-- R202: the refusals of the operations, with the index or the sum each of them checks. -/
inductive RefusedBy (s : State) : Instr → Refusal → Prop where
  | readPayload (h : s.rx.pbuf.length ≤ s.rx.count.toNat) : RefusedBy s .rxReadPayload (.bufferIndex s.rx.count.toNat)
  | awaitEnd (hend : s.fwd.data = wireEnd)
      (h : s.rx.pbuf.length < s.rx.expLen.toNat ∨ s.rbuf.length < s.rx.expLen.toNat) :
      RefusedBy s .rxAwaitEnd (.bufferIndex (s.rx.expLen.toNat - 1))
  | emitPayload (h : s.tx.txbuf.length ≤ s.tx.idx.toNat) : RefusedBy s .txEmitPayload (.bufferIndex s.tx.idx.toNat)
  | waitEntry (h : tickFits s.params s.clock = false) : RefusedBy s .txWaitEntry .tickOverflow
  | tick (h : tickFits s.params (s.clock + 1) = false) : RefusedBy s .tick .tickOverflow
  | startIndex {len : Byte} {p : List Byte} (hphase : s.tx.phase = .idle ∨ s.tx.phase = .done)
      (hcap : len.toNat ≤ s.params.cap) (hp : len.toNat ≤ p.length) (h : s.tx.txbuf.length < len.toNat) :
      RefusedBy s (.txStart len p) (.bufferIndex (len.toNat - 1))
  | startOperands {len : Byte} {p : List Byte} (hphase : s.tx.phase = .idle ∨ s.tx.phase = .done)
      (hcap : len.toNat ≤ s.params.cap) (h : p.length < len.toNat) :
      RefusedBy s (.txStart len p) (.operandCount 1 (p.length + 1))

theorem writeBuf_eq_none {buf : Buffer} {k : Nat} {v : Byte} : writeBuf buf k v = none ↔ buf.length ≤ k := by
  simp [writeBuf]

theorem readBuf_eq_none {buf : Buffer} {k : Nat} : readBuf buf k = none ↔ buf.length ≤ k :=
  List.getElem?_eq_none_iff

theorem copyPrefix_eq_none {n : Nat} {src dst : Buffer} :
    copyPrefix n src dst = none ↔ src.length < n ∨ dst.length < n := by
  simp only [copyPrefix, ite_eq_right_iff, reduceCtorEq, imp_false]
  omega

theorem accept_eq_none : accept s = none ↔ s.rx.pbuf.length < s.rx.expLen.toNat ∨ s.rbuf.length < s.rx.expLen.toNat := by
  rw [← copyPrefix_eq_none, accept]
  split <;> simp_all

/-- Each refusal of the list is answered where its condition holds. -/
theorem RefusedBy.exec (h : RefusedBy s i r) (he : Enabled s) : exec i s = .refused r := by
  cases h with
  | readPayload h =>
    simp only [Machine.exec, execRxReadPayload, move_of_enabled he, takeFwd, writeBuf_eq_none.mpr h]
  | awaitEnd hend h =>
    have hacc := (accept_eq_none (s := (takeFwd { s with out := StepOut.zero }).2)).mpr h
    simp only [Machine.exec, execRxAwaitEnd, move_of_enabled he, takeFwd_byte, hend, if_true, hacc, takeFwd_rx]
  | emitPayload h => simp only [Machine.exec, execTxEmitPayload, move_of_enabled he, readBuf_eq_none.mpr h]
  | waitEntry h => simp [Machine.exec, execTxWaitEntry, move_of_enabled he, h]
  | tick h => simp [Machine.exec, execTick, move_of_enabled he, h]
  | startIndex hphase hcap hp h =>
    simp only [Machine.exec, execTxStart, move_of_enabled he, mayStart_eq_true.mpr hphase, if_true,
      if_neg (Nat.not_lt.mpr hcap), if_neg (Nat.not_lt.mpr hp), copyPrefix_eq_none.mpr (.inr h)]
  | startOperands hphase hcap h =>
    simp only [Machine.exec, execTxStart, move_of_enabled he, mayStart_eq_true.mpr hphase, if_true,
      if_neg (Nat.not_lt.mpr hcap), if_pos h]

/-- An operation refuses nothing but what the list says. -/
theorem refusedBy_of_exec (he : Enabled s) (h : exec i s = .refused r) : RefusedBy s i r := by
  cases i <;>
    simp only [exec, execRxNobyte, execRxAwaitStart, execRxReadLength, execRxReadPayload, execRxVerifyChecksum,
      execRxAwaitEnd, execTxIdle, execTxEmitStart, execTxEmitLength, execTxEmitPayload, execTxEmitChecksum,
      execTxEmitEnd, execTxWaitEntry, execTxWait, execTxDone, execReset, execTxStart, execTick, execEnvPutFwd,
      execEnvTakeFwd, execEnvPutRev, execEnvTakeRev, move_of_enabled he, reduceCtorEq] at h
  case rxReadPayload =>
    split at h
    · next hw =>
      cases h
      exact .readPayload (writeBuf_eq_none.mp hw)
    · cases h
  case rxAwaitEnd =>
    split at h
    · next hend =>
      split at h
      · next hacc =>
        cases h
        exact .awaitEnd hend (accept_eq_none (s := (takeFwd { s with out := StepOut.zero }).2).mp hacc)
      · cases h
    · cases h
  case txEmitPayload =>
    split at h
    · next hv =>
      cases h
      exact .emitPayload (readBuf_eq_none.mp hv)
    · cases h
  case txWaitEntry =>
    split at h
    · cases h
    · next hfits =>
      cases h
      exact .waitEntry (Bool.eq_false_of_not_eq_true hfits)
  case tick =>
    split at h
    · cases h
    · next hfits =>
      cases h
      exact .tick (Bool.eq_false_of_not_eq_true hfits)
  case txStart len p =>
    split_ifs at h with hphase hcap hp
    · cases h
      exact .startOperands (mayStart_eq_true.mp hphase) (Nat.le_of_not_lt hcap) hp
    · split at h
      · next hcopy =>
        cases h
        have hlong := (copyPrefix_eq_none.mp hcopy).resolve_left hp
        exact .startIndex (mayStart_eq_true.mp hphase) (Nat.le_of_not_lt hcap) (Nat.le_of_not_lt hp) hlong
      · cases h

/-- R202: with a parameter outside its range every operation is refused. -/
theorem exec_of_parameterRange (hf : s.fault = none) (hp : paramsOk s.params = false) (i : Instr) :
    exec i s = .refused .parameterRange := by
  obtain ⟨body, e⟩ := exec_eq_move i s
  rw [e]
  simp [move, hf, hp]

theorem exec_refused (h : exec i s = .refused r) :
    s.fault = none ∧ ((paramsOk s.params = false ∧ r = .parameterRange) ∨
      (paramsOk s.params = true ∧ RefusedBy s i r)) := by
  have hf : s.fault = none := by
    cases hf : s.fault with
    | none => rfl
    | some f => cases (exec_of_fault hf i).symm.trans h
  refine ⟨hf, ?_⟩
  cases hp : paramsOk s.params with
  | false =>
    cases (exec_of_parameterRange hf hp i).symm.trans h
    exact .inl ⟨rfl, rfl⟩
  | true => exact .inr ⟨rfl, refusedBy_of_exec ⟨hf, hp⟩ h⟩

/-! ### Commands that decode to nothing -/

theorem noOperands_error {code : BitVec 4} {ops : List Byte} {j : Instr} {e : DecodeError}
    (h : noOperands code j ops = .error e) : e = .operandCount code ops.length := by
  cases ops <;> simp_all [noOperands]

theorem oneByte_error {code : BitVec 4} {ops : List Byte} {f : Byte → Instr} {e : DecodeError}
    (h : oneByte code f ops = .error e) : e = .operandCount code ops.length := by
  rcases ops with - | ⟨b, - | ⟨c, ops⟩⟩ <;> simp_all [oneByte]

theorem startOperands_error {code : BitVec 4} {ops : List Byte} {e : DecodeError}
    (h : startOperands code ops = .error e) : e = .operandCount code ops.length := by
  rcases ops with - | ⟨len, p⟩
  · simp_all [startOperands]
  · by_cases hl : p.length = len.toNat <;> simp_all [startOperands]

/-- A command is rejected by its code, or for its operand bytes (R90, R91). -/
theorem decodeCommand_error {code : BitVec 4} {ops : List Byte} {e : DecodeError}
    (h : decodeCommand code ops = .error e) :
    (7 ≤ code.toNat ∧ e = .reservedCommand code) ∨ (code.toNat ≤ 6 ∧ e = .operandCount code ops.length) := by
  by_cases hc : 7 ≤ code.toNat
  · cases (decodeCommand_reserved hc ops).symm.trans h
    exact .inl ⟨hc, rfl⟩
  · have hk : code.toNat ≤ 6 := by omega
    refine .inr ⟨hk, ?_⟩
    unfold decodeCommand at h
    interval_cases code.toNat
    · exact noOperands_error h
    · exact startOperands_error h
    · exact noOperands_error h
    · exact oneByte_error h
    · exact noOperands_error h
    · exact oneByte_error h
    · exact noOperands_error h

theorem fetch_error {m : Move} (h : fetch s m = .error r) :
    ∃ e, decode (encodedMove s m) = .error e ∧ r = refusalOf e := by
  unfold fetch at h
  split at h
  · cases h
  · next e he =>
    cases h
    exact ⟨e, he, rfl⟩

/-- The agents' selectors decode, so only a command's encoding is refused. -/
theorem fetch_refused {m : Move} (h : fetch s m = .error r) :
    ∃ (code : BitVec 4) (ops : List Byte), m = .command code ops ∧ (∀ i : Instr, decodeCommand code ops ≠ .ok i) ∧
      ((7 ≤ code.toNat ∧ r = .reservedCommand code) ∨ (code.toNat ≤ 6 ∧ r = .operandCount code ops.length)) := by
  obtain ⟨e, he, rfl⟩ := fetch_error h
  cases m with
  | stepRx => cases (decodeSelector_rxSelector s).symm.trans he
  | stepTx => cases (decodeSelector_txSelector s).symm.trans he
  | command code ops =>
    have hno : ∀ i : Instr, decodeCommand code ops ≠ .ok i := fun i hi => by cases hi.symm.trans he
    refine ⟨code, ops, rfl, hno, ?_⟩
    obtain ⟨hc, rfl⟩ | ⟨hc, rfl⟩ := decodeCommand_error he
    · exact .inl ⟨hc, rfl⟩
    · exact .inr ⟨hc, rfl⟩

/-- A command that decodes to nothing is refused. -/
theorem step_undecoded {code : BitVec 4} {ops : List Byte} {rest : List Move} {e : DecodeError} (hf : s.fault = none)
    (hs : s.sched = .command code ops :: rest) (he : decodeCommand code ops = .error e) :
    step s = .refused (refusalOf e) := by
  rw [step_cons hf hs]
  simp only [perform, fetch, encodedMove, decode, he]

/-- A step is refused for its encoding, or as the operation it decodes to. -/
theorem step_refused (h : step s = .refused r) :
    s.fault = none ∧ ∃ m rest, s.sched = m :: rest ∧
      (fetch s m = .error r ∨ ∃ i, decode (encodedMove s m) = .ok i ∧
        ((paramsOk s.params = false ∧ r = .parameterRange) ∨ (paramsOk s.params = true ∧ RefusedBy s i r))) := by
  have hf : s.fault = none := by
    cases hf : s.fault with
    | none => rfl
    | some f => cases (step_of_fault hf).symm.trans h
  refine ⟨hf, ?_⟩
  cases hs : s.sched with
  | nil => cases (noMoveLeavesTheStateFrozen s hf hs).symm.trans h
  | cons m rest =>
    refine ⟨m, rest, rfl, ?_⟩
    rw [step_cons hf hs, perform, fetch_sched] at h
    split at h
    · next i hi =>
      rw [stopOnFault_refused, exec_sched] at h
      cases hx : exec i s <;> rw [hx] at h <;> cases h
      exact .inr ⟨i, fetch_ok.mp hi, (exec_refused hx).2⟩
    · next q hq =>
      cases h
      exact .inl hq

end Refusals

/-- Settles O32: the list by `RefusedBy.exec` and `step_undecoded`, the converse by `step_refused`. -/
theorem refusalsAreThoseOfTheList : Obligations.RefusalsAreThoseOfTheList := by
  refine ⟨fun s i hf hp => exec_of_parameterRange hf hp i, fun s he h => (RefusedBy.readPayload h).exec he,
    fun s he h => (RefusedBy.emitPayload h).exec he, fun s he hend h => (RefusedBy.awaitEnd hend h).exec he,
    fun s len p he hphase hcap hp h => (RefusedBy.startIndex hphase hcap hp h).exec he,
    fun s len p he hphase hcap h => (RefusedBy.startOperands hphase hcap h).exec he,
    fun s he h => (RefusedBy.waitEntry h).exec he, fun s he h => (RefusedBy.tick h).exec he, ?_, ?_⟩
  · intro s code ops rest hf hs
    refine ⟨fun hc => step_undecoded hf hs (decodeCommand_reserved hc ops), fun hc hno => ?_⟩
    cases he : decodeCommand code ops with
    | ok i => exact absurd he (hno i)
    | error e =>
      obtain ⟨hlarge, -⟩ | ⟨-, rfl⟩ := decodeCommand_error he
      · omega
      · exact step_undecoded hf hs he
  · intro s r hstep
    obtain ⟨hf, m, rest, hs, hfetch | ⟨i, hd, hx⟩⟩ := step_refused hstep
    · exact ⟨hf, m, rest, hs, .inl (fetch_refused hfetch)⟩
    · refine ⟨hf, m, rest, hs, .inr ⟨i, hd, hx.imp_right fun ⟨hp, hr⟩ => ⟨hp, ?_⟩⟩⟩
      cases hr with
      | readPayload h => exact .inl ⟨rfl, h, rfl⟩
      | emitPayload h => exact .inr (.inl ⟨rfl, h, rfl⟩)
      | awaitEnd hend h => exact .inr (.inr (.inl ⟨rfl, hend, h, rfl⟩))
      | startIndex hphase hcap hp h => exact .inr (.inr (.inr (.inl ⟨_, _, rfl, hphase, hcap, h, rfl⟩)))
      | startOperands hphase hcap h => exact absurd (decode_txStart.mp hd).2 h.ne
      | waitEntry h => exact .inr (.inr (.inr (.inr (.inl ⟨rfl, h, rfl⟩))))
      | tick h => exact .inr (.inr (.inr (.inr (.inr ⟨rfl, h, rfl⟩))))

/-! ### No state of the invariant refuses -/

section InvRefuses

variable {s : State} {i : Instr} {r : Refusal}

theorem RxPhase.handler_injective : Function.Injective RxPhase.handler := by
  intro p q h
  cases p <;> cases q <;> cases h <;> rfl

theorem TxPhase.handler_injective : Function.Injective TxPhase.handler := by
  intro p q h
  cases p <;> cases q <;> cases h <;> rfl

/-- A receiver step that takes a byte was dispatched by the receiver's phase (R110). -/
theorem Dispatched.eq_rxHandler (hd : Dispatched s i) (hr : i.isReceiver = true) (hne : i ≠ .rxNobyte) :
    i = s.rx.phase.handler := by
  cases hd with
  | nobyte => exact absurd rfl hne
  | receiver => rfl
  | sender => cases hp : s.tx.phase <;> rw [hp] at hr <;> cases hr
  | command hno => cases hno.symm.trans hr

/-- A sender step was dispatched by the sender's phase (R142). -/
theorem Dispatched.eq_txHandler (hd : Dispatched s i) (hs : i.isSender = true) : i = s.tx.phase.handler := by
  cases hd with
  | nobyte => cases hs
  | receiver => cases hp : s.rx.phase <;> rw [hp] at hs <;> cases hs
  | sender => rfl
  | command _ hno => cases hno.symm.trans hs

/-- In a state of the invariant with room for one more tick no dispatched operation is refused: the indices lie inside
the buffers, and the sums fit. -/
theorem Inv.not_refusedBy (hi : Inv s) (hfits : tickFits s.params (s.clock + 1) = true) (hd : Dispatched s i)
    (hwf : i.wf = true) : ¬ RefusedBy s i r := by
  obtain ⟨hpbuf, hrbuf, htxbuf⟩ := hi.memory
  intro h
  cases h with
  | readPayload h =>
    have hp : s.rx.phase = .readPayload := RxPhase.handler_injective (hd.eq_rxHandler rfl nofun).symm
    have hinside := hi.receiver.readPayload hp
    omega
  | awaitEnd hend h =>
    have hp : s.rx.phase = .awaitEnd := RxPhase.handler_injective (hd.eq_rxHandler rfl nofun).symm
    have hinside := (hi.receiver.collected (.inr hp)).2
    omega
  | emitPayload h =>
    have hp : s.tx.phase = .emitPayload := TxPhase.handler_injective (hd.eq_txHandler rfl).symm
    have hinside := hi.sender.emitPayload hp
    have hlen := (hi.sender.latched (by simp [hp])).1
    omega
  | waitEntry h => cases hi.clock.fits.symm.trans h
  | tick h => cases hfits.symm.trans h
  | startIndex hphase hcap hp h => omega
  | startOperands hphase hcap h => exact absurd (of_decide_eq_true hwf) h.ne

theorem wf_of_no_start (h : i.isStart = false) : i.wf = true := by
  cases i <;> cases h <;> rfl

/-- What an encoding decodes to is well formed: a selector has no operands, a command exactly those of R93. -/
theorem wf_of_decode {e : Encoded} (h : decode e = .ok i) : i.wf = true := by
  cases e with
  | selector w =>
    exact wf_of_no_start (decodeSelector_isStart h)
  | command code ops => exact (encodeOfDecodedCommandIsTheCommand code ops i h).2

theorem Inv.not_step_refused (hi : Inv s) (hfits : tickFits s.params (s.clock + 1) = true) {m : Move} {rest : List Move}
    (hs : s.sched = m :: rest) (hdecodes : ∃ i, decode (encodedMove s m) = .ok i) : step s ≠ .refused r := by
  intro h
  obtain ⟨-, m', rest', hs', hfetch | ⟨i, hd, hx⟩⟩ := step_refused h <;> cases hs.symm.trans hs'
  · obtain ⟨i, hi⟩ := hdecodes
    cases (fetch_ok.mpr hi).symm.trans hfetch
  · obtain ⟨hp, -⟩ | ⟨-, hr⟩ := hx
    · cases hi.params.symm.trans hp
    · exact hi.not_refusedBy hfits (dispatched_of_decode hd) (wf_of_decode hd) hr

end InvRefuses

/-- Settles O33: the step is not refused, and a fault would be that of a misused TX_START. -/
theorem everyMoveGoesOnUnlessTxStartIsMisused : Obligations.EveryMoveGoesOnUnlessTxStartIsMisused := by
  intro s m rest hi hf hfits hs hm
  have hdecodes : ∃ i, decode (encodedMove s m) = .ok i := by
    obtain rfl | rfl | ⟨i, code, ops, hwf, hencode, rfl, -⟩ := hm
    · exact ⟨_, decodeSelector_rxSelector s⟩
    · exact ⟨_, decodeSelector_txSelector s⟩
    · exact ⟨i, (congrArg decode hencode).symm.trans (decodeOfEncodeIsTheInstruction i hwf)⟩
  cases hstep : step s with
  | next t => exact ⟨t, rfl, step_next_safe hstep⟩
  | refused r => exact absurd hstep (hi.not_step_refused hfits hs hdecodes)
  | fault f =>
    obtain ⟨len, p, rest', hs', hmis⟩ := misused_of_step_fault hf hstep
    cases hs.symm.trans hs'
    obtain hm | hm | ⟨i, code, ops, hwf, hencode, hm, huse⟩ := hm <;> cases hm
    have hstart : i = .txStart len p := by cases i <;> cases hencode; rfl
    obtain ⟨hphase, hcap⟩ := huse len p hstart
    obtain ⟨hidle, hdone, -⟩ | ⟨-, hlong, -⟩ := hmis
    · exact absurd hphase (not_or.mpr ⟨hidle, hdone⟩)
    · omega

end Sys2Proof.Machine

namespace Sys2Proof.Machine

/-! ## Proofs: bytes that no rule reads (spec/10_state.md R25, R32, R52, R64)

Two states that agree but for such bytes are one state `s` and its twin `restale pb tb f r s`, with other buffers and other
slots. An operation answers the same form of both, and what it reads of a buffer lies in the part the two agree on. -/

section Stale

variable {s t : State} {i : Instr} {pb tb : Buffer} {f r : Slot}

/-- The state with other payload buffers and other slots. -/
def restale (pb tb : Buffer) (f r : Slot) (s : State) : State :=
  { s with rx := { s.rx with pbuf := pb }, tx := { s.tx with txbuf := tb }, fwd := f, rev := r }

theorem StaleAgree.exists_restale (h : StaleAgree s t) : ∃ pb tb f r, t = restale pb tb f r s :=
  ⟨_, _, _, _, h.rest⟩

/-! ### Slots -/

/-- A full slot has no stale byte. -/
theorem SlotAgree.eq_of_avail {a b : Slot} (h : SlotAgree a b) (ha : a.avail = true) : b = a := by
  obtain ⟨havail, hoverrun, hdata⟩ := h
  cases a
  cases b
  simp_all

theorem SlotAgree.put {a b : Slot} (h : SlotAgree a b) (v : Byte) : SlotAgree (slotPut a v) (slotPut b v) := by
  obtain ⟨havail, hoverrun, -⟩ := h
  exact ⟨rfl, by simp [havail, hoverrun], fun _ => rfl⟩

theorem SlotAgree.take {a b : Slot} (h : SlotAgree a b) :
    SlotAgree { a with avail := false } { b with avail := false } :=
  ⟨rfl, h.2.1, nofun⟩

theorem SlotAgree.drop {a b : Slot} (h : SlotAgree a b) : SlotAgree (slotDrop a) (slotDrop b) := by
  rw [slotDrop_eq, slotDrop_eq]
  exact h.take

/-! ### The forms of an answer -/

section Forms

variable (h : StaleAgree s (restale pb tb f r s))

include h

theorem StaleAgree.taken {rx : Receiver} {pb' : Buffer} {ev : Event} (hlength : rx.pbuf.length = pb'.length)
    (hpbuf : rx.phase.inFrame = true → rx.pbuf.take rx.count.toNat = pb'.take rx.count.toNat) :
    StaleAgree (taken rx ev s) (taken { rx with pbuf := pb' } ev (restale pb tb f r s)) :=
  ⟨rfl, h.fwd.take, h.rev, hlength, h.txbufLength, hpbuf, h.txbuf⟩

/-- A receiver that keeps `pbuf` and `rx.count`, and either stays in the frame or is outside of one. -/
theorem StaleAgree.taken_same {rx : Receiver} {ev : Event} (hbuf : rx.pbuf = s.rx.pbuf) (hcount : rx.count = s.rx.count)
    (hphase : rx.phase.inFrame = true → s.rx.phase.inFrame = true) :
    StaleAgree (Machine.taken rx ev s) (Machine.taken { rx with pbuf := pb } ev (restale pb tb f r s)) :=
  h.taken (by rw [hbuf]; exact h.pbufLength) fun hin => by rw [hbuf, hcount]; exact h.pbuf (hphase hin)

theorem StaleAgree.emitted {b : Byte} {tx : Sender} (hlen : tx.len = s.tx.len) (hbuf : tx.txbuf = s.tx.txbuf)
    (hphase : s.tx.phase ≠ .idle) :
    StaleAgree (emitted b tx s) (emitted b { tx with txbuf := tb } (restale pb tb f r s)) :=
  ⟨rfl, h.fwd.put b, h.rev, h.pbufLength, by rw [Machine.emitted, hbuf]; exact h.txbufLength, h.pbuf,
    fun _ => by dsimp only [Machine.emitted]; rw [hlen, hbuf]; exact h.txbuf hphase⟩

theorem StaleAgree.waited {tx : Sender} {evs : List Event} {st : Status} (hlen : tx.len = s.tx.len)
    (hbuf : tx.txbuf = s.tx.txbuf) (hphase : s.tx.phase ≠ .idle) :
    StaleAgree (waited tx evs st s) (waited { tx with txbuf := tb } evs st (restale pb tb f r s)) := by
  have havail : r.avail = s.rev.avail := h.rev.1.symm
  exact ⟨by simp [Machine.waited, restale, havail], h.fwd, h.rev.take, h.pbufLength,
    by rw [Machine.waited, hbuf]; exact h.txbufLength, h.pbuf,
    fun _ => by dsimp only [Machine.waited]; rw [hlen, hbuf]; exact h.txbuf hphase⟩

/-- REV is read only when it holds a byte, and then it is the same byte. -/
theorem StaleAgree.ack_iff :
    ((restale pb tb f r s).rev.avail = true ∧ (restale pb tb f r s).rev.data = wireAck) ↔
      (s.rev.avail = true ∧ s.rev.data = wireAck) := by
  rw [← h.rev.1]
  exact and_congr_right fun ha => by rw [h.rev.2.2 ha]

theorem StaleAgree.discarded_eq : discarded (restale pb tb f r s) = discarded s := by
  cases ha : s.rev.avail with
  | false => simp only [discarded, ← h.rev.1, ha, Bool.false_eq_true, if_false]
  | true => simp only [discarded, h.rev.eq_of_avail ha]

theorem StaleAgree.waitCheck (d : Nat) (hphase : s.tx.phase ≠ .idle) :
    StaleAgree (waitCheck d s) (waitCheck d (restale pb tb f r s)) := by
  obtain ⟨ha, hk, e⟩ | ⟨hno, hd, e⟩ | ⟨hno, hd, e⟩ := waitCheck_eq d s <;> rw [e]
  · obtain ⟨ha', hk'⟩ := h.ack_iff.mpr ⟨ha, hk⟩
    rw [waitCheck_of_ack ha' hk']
    exact h.waited rfl rfl hphase
  · rw [waitCheck_of_timeout (mt h.ack_iff.mp hno) hd, h.discarded_eq, satInc_eq]
    exact h.waited rfl rfl hphase
  · rw [waitCheck_of_lt (mt h.ack_iff.mp hno) hd, h.discarded_eq]
    exact h.waited rfl rfl hphase

/-- What a step drives, the deadline, the clock and the fault register are no stale bytes. -/
theorem StaleAgree.with_kept (d c : Nat) (fault : Option Fault) (out : StepOut) :
    StaleAgree { s with tx := { s.tx with deadline := d }, clock := c, fault := fault, out := out }
      (restale pb tb f r { s with tx := { s.tx with deadline := d }, clock := c, fault := fault, out := out }) :=
  ⟨rfl, h.fwd, h.rev, h.pbufLength, h.txbufLength, h.pbuf, h.txbuf⟩

theorem StaleAgree.with_slots {f' r' fwd rev : Slot} (hf : SlotAgree fwd f') (hr : SlotAgree rev r') (out : StepOut) :
    StaleAgree { s with fwd := fwd, rev := rev, out := out } (restale pb tb f' r' { s with out := out }) :=
  ⟨rfl, hf, hr, h.pbufLength, h.txbufLength, h.pbuf, h.txbuf⟩

end Forms

/-! ### The receiver's handlers -/

/-- One byte written at the end of what two buffers agree on. -/
theorem take_set_congr {a b : Buffer} {k : Nat} (ha : k < a.length) (hb : k < b.length) (h : a.take k = b.take k)
    (v : Byte) : (a.set k v).take (k + 1) = (b.set k v).take (k + 1) := by
  rw [writeBuf_take (writeBuf_eq_some.mpr ⟨ha, rfl⟩), writeBuf_take (writeBuf_eq_some.mpr ⟨hb, rfl⟩), h]

/-- R115: the byte is written where both receivers have collected the same. -/
theorem exec_rxReadPayload_agree (hi : Inv s) (he : Enabled s) (h : StaleAgree s (restale pb tb s.fwd r s))
    (hp : s.rx.phase = .readPayload) :
    OutcomeAgree StaleAgree (exec .rxReadPayload s) (exec .rxReadPayload (restale pb tb s.fwd r s)) := by
  have he' : Enabled (restale pb tb s.fwd r s) := he
  have hpb : s.rx.pbuf.length = pb.length := h.pbufLength
  obtain ⟨hpbuf, -, -⟩ := hi.memory
  obtain ⟨-, hcap, hcount⟩ := hi.receiver.readPayload hp
  have hidx : s.rx.count.toNat < s.rx.pbuf.length := by omega
  have hidx' : s.rx.count.toNat < pb.length := hpb ▸ hidx
  have htake : s.rx.pbuf.take s.rx.count.toNat = pb.take s.rx.count.toNat := h.pbuf (by rw [hp]; rfl)
  rw [readPayloadCollectsOneByte s he hidx, readPayloadCollectsOneByte _ he' hidx']
  refine h.taken (pb' := pb.set s.rx.count.toNat s.fwd.data) (by simpa using hpb) fun _ => ?_
  dsimp only
  rw [toNat_succ_of_lt hcount]
  exact take_set_congr hidx hidx' htake s.fwd.data

/-- R120: the accept copies what both receivers have collected. -/
theorem exec_rxAwaitEnd_agree (hi : Inv s) (he : Enabled s) (h : StaleAgree s (restale pb tb s.fwd r s))
    (hp : s.rx.phase = .awaitEnd) :
    OutcomeAgree StaleAgree (exec .rxAwaitEnd s) (exec .rxAwaitEnd (restale pb tb s.fwd r s)) := by
  have hpb : s.rx.pbuf.length = pb.length := h.pbufLength
  obtain ⟨hpbuf, hrbuf, -⟩ := hi.memory
  obtain ⟨haccept, hreject⟩ := awaitEndAcceptsOrDiscards s he
  obtain ⟨haccept', hreject'⟩ := awaitEndAcceptsOrDiscards (restale pb tb s.fwd r s) he
  obtain ⟨hcount, hcap⟩ := hi.receiver.collected (.inr hp)
  by_cases hd : s.fwd.data = 0x03
  · have htake : pb.take s.rx.expLen.toNat = s.rx.pbuf.take s.rx.expLen.toNat := by
      rw [← hcount]
      exact (h.pbuf (by rw [hp]; rfl)).symm
    have hlen : s.rx.expLen.toNat ≤ s.rx.pbuf.length := by omega
    have hlen' : s.rx.expLen.toNat ≤ pb.length := hpb ▸ hlen
    rw [haccept hd hlen (by omega), haccept' hd hlen' (by exact hrbuf ▸ hcap)]
    refine ⟨?_, h.fwd.take, h.rev.put 0x06, hpb, h.txbufLength, nofun, h.txbuf⟩
    simp only [restale, htake]
  · rw [hreject hd, hreject' hd]
    exact h.taken_same rfl rfl nofun

/-- The two answers of a receiver that finds a byte: FWD is full, so that the two states have the same FWD. -/
theorem exec_rxHandler_agree (hi : Inv s) (he : Enabled s) (h : StaleAgree s (restale pb tb s.fwd r s)) :
    OutcomeAgree StaleAgree (exec s.rx.phase.handler s) (exec s.rx.phase.handler (restale pb tb s.fwd r s)) := by
  have he' : Enabled (restale pb tb s.fwd r s) := he
  cases hp : s.rx.phase with
  | awaitStart =>
    obtain ⟨hstart, hnoise⟩ := awaitStartLooksForTheStartMarker s he
    obtain ⟨hstart', hnoise'⟩ := awaitStartLooksForTheStartMarker _ he'
    by_cases hd : s.fwd.data = 0x02
    · rw [RxPhase.handler, hstart hd, hstart' hd]
      exact h.taken h.pbufLength nofun
    · rw [RxPhase.handler, hnoise hd, hnoise' hd]
      exact h.taken_same rfl rfl id
  | readLength =>
    obtain ⟨hcount, -⟩ := hi.receiver.readLength hp
    rw [RxPhase.handler, exec_rxReadLength_of_enabled he, exec_rxReadLength_of_enabled he']
    exact h.taken h.pbufLength fun _ => by simp [hcount]
  | readPayload => exact exec_rxReadPayload_agree hi he h hp
  | verifyChecksum =>
    obtain ⟨hok, hreject⟩ := verifyChecksumComparesWithTheFold s he
    obtain ⟨hok', hreject'⟩ := verifyChecksumComparesWithTheFold _ he'
    by_cases hd : s.fwd.data = s.rx.acc
    · rw [RxPhase.handler, hok hd, hok' hd]
      exact h.taken_same rfl rfl fun _ => by rw [hp]; rfl
    · rw [RxPhase.handler, hreject hd, hreject' hd]
      exact h.taken_same rfl rfl nofun
  | awaitEnd => exact exec_rxAwaitEnd_agree hi he h hp

/-! ### The sender's handlers -/

theorem exec_txHandler_agree (hi : Inv s) (he : Enabled s) (h : StaleAgree s (restale pb tb f r s)) :
    OutcomeAgree StaleAgree (exec s.tx.phase.handler s) (exec s.tx.phase.handler (restale pb tb f r s)) := by
  have he' : Enabled (restale pb tb f r s) := he
  have htb : s.tx.txbuf.length = tb.length := h.txbufLength
  obtain ⟨-, -, htxbuf⟩ := hi.memory
  have hfits := hi.clock.fits
  cases hp : s.tx.phase with
  | idle =>
    rw [TxPhase.handler, (idleAndDoneChangeNothing s he).1, (idleAndDoneChangeNothing _ he').1]
    exact h.with_slots h.fwd h.rev _
  | emitStart =>
    rw [TxPhase.handler, exec_txEmitStart_of_enabled he, exec_txEmitStart_of_enabled he']
    exact h.emitted rfl rfl (by simp [hp])
  | emitLength =>
    rw [TxPhase.handler, exec_txEmitLength_of_enabled he, exec_txEmitLength_of_enabled he']
    exact h.emitted rfl rfl (by simp [hp])
  | emitPayload =>
    have hidx := hi.sender.emitPayload hp
    have hlen := (hi.sender.latched (by simp [hp])).1
    have hbyte : s.tx.txbuf[s.tx.idx.toNat]? = tb[s.tx.idx.toNat]? := by
      have htake : s.tx.txbuf.take s.tx.len.toNat = tb.take s.tx.len.toNat := h.txbuf (by simp [hp])
      rw [← List.getElem?_take_of_lt hidx, htake, List.getElem?_take_of_lt hidx]
    obtain ⟨v, hv⟩ : ∃ v, s.tx.txbuf[s.tx.idx.toNat]? = some v :=
      ⟨_, List.getElem?_eq_getElem (by omega)⟩
    rw [TxPhase.handler, exec_txEmitPayload_of_enabled he hv, exec_txEmitPayload_of_enabled he' (hbyte ▸ hv)]
    exact h.emitted rfl rfl (by simp [hp])
  | emitChecksum =>
    rw [TxPhase.handler, exec_txEmitChecksum_of_enabled he, exec_txEmitChecksum_of_enabled he']
    exact h.emitted rfl rfl (by simp [hp])
  | emitEnd =>
    rw [TxPhase.handler, exec_txEmitEnd_of_enabled he, exec_txEmitEnd_of_enabled he']
    exact h.emitted rfl rfl (by simp [hp])
  | waitEntry =>
    rw [TxPhase.handler, exec_txWaitEntry_of_enabled he hfits, exec_txWaitEntry_of_enabled he' hfits]
    exact (h.with_kept _ _ _ _).waitCheck _ (by simp [hp])
  | wait =>
    rw [TxPhase.handler, exec_txWait_of_enabled he, exec_txWait_of_enabled he']
    exact (h.with_kept _ _ _ _).waitCheck _ (by simp [hp])
  | done =>
    rw [TxPhase.handler, (idleAndDoneChangeNothing s he).2, (idleAndDoneChangeNothing _ he').2]
    exact h.with_slots h.fwd h.rev _

/-! ### Commands -/

theorem exec_txStart_agree {len : Byte} {p : List Byte} (hi : Inv s) (he : Enabled s)
    (h : StaleAgree s (restale pb tb f r s)) (hl : p.length = len.toNat) :
    OutcomeAgree StaleAgree (exec (.txStart len p) s) (exec (.txStart len p) (restale pb tb f r s)) := by
  have he' : Enabled (restale pb tb f r s) := he
  have htb : s.tx.txbuf.length = tb.length := h.txbufLength
  obtain ⟨-, -, htxbuf⟩ := hi.memory
  by_cases hmis : ∃ g, Misused s len g
  · obtain ⟨g, hg⟩ := hmis
    rw [exec_txStart_misused he hg, exec_txStart_misused he' hg]
    exact h.with_kept _ _ _ _
  · have hphase : s.tx.phase = .idle ∨ s.tx.phase = .done := by
      by_contra hp
      obtain ⟨hidle, hdone⟩ := not_or.mp hp
      exact hmis ⟨_, .inl ⟨hidle, hdone, rfl⟩⟩
    have hcap : len.toNat ≤ s.params.cap := Nat.le_of_not_lt fun hc => hmis ⟨_, .inr ⟨hphase, hc, rfl⟩⟩
    have hlen : len.toNat ≤ s.tx.txbuf.length := by omega
    have hlen' : len.toNat ≤ tb.length := htb ▸ hlen
    rw [exec_txStart_latches he hl hphase hcap hlen, exec_txStart_latches he' hl hphase hcap hlen']
    refine ⟨rfl, h.fwd, h.rev, h.pbufLength, by simp [restale, htb], h.pbuf, fun _ => ?_⟩
    simp [← hl]

theorem exec_command_agree (hr : i.isReceiver = false) (hs : i.isSender = false) (hwf : i.wf = true) (hi : Inv s)
    (he : Enabled s) (h : StaleAgree s (restale pb tb f r s)) :
    OutcomeAgree StaleAgree (exec i s) (exec i (restale pb tb f r s)) := by
  have he' : Enabled (restale pb tb f r s) := he
  obtain rfl | ⟨len, p, rfl⟩ | rfl | ⟨b, rfl⟩ | rfl | ⟨b, rfl⟩ | rfl := command_of_no_agent hr hs
  · rw [exec_reset_of_enabled he, exec_reset_of_enabled he']
    exact ⟨rfl, h.fwd, h.rev, rfl, rfl, fun _ => rfl, fun _ => rfl⟩
  · exact exec_txStart_agree hi he h (of_decide_eq_true hwf)
  · cases hfits : tickFits s.params (s.clock + 1) with
    | true =>
      rw [exec_tick_of_enabled he hfits, exec_tick_of_enabled he' hfits]
      exact h.with_kept _ _ _ _
    | false =>
      have hrefused : RefusedBy (restale pb tb f r s) .tick .tickOverflow := .tick hfits
      rw [(RefusedBy.tick hfits).exec he, hrefused.exec he']
      rfl
  · rw [exec_envPutFwd_of_enabled he, exec_envPutFwd_of_enabled he']
    exact h.with_slots (h.fwd.put b) h.rev _
  · rw [exec_envTakeFwd_of_enabled he, exec_envTakeFwd_of_enabled he']
    exact h.with_slots h.fwd.take h.rev _
  · rw [exec_envPutRev_of_enabled he, exec_envPutRev_of_enabled he']
    exact h.with_slots h.fwd (h.rev.put b) _
  · rw [exec_envTakeRev_of_enabled he, exec_envTakeRev_of_enabled he']
    exact h.with_slots h.fwd h.rev.take _

/-! ### Every step -/

theorem exec_dispatched_agree (hd : Dispatched s i) (hwf : i.wf = true) (hi : Inv s) (he : Enabled s)
    (h : StaleAgree s (restale pb tb f r s)) :
    OutcomeAgree StaleAgree (exec i s) (exec i (restale pb tb f r s)) := by
  have he' : Enabled (restale pb tb f r s) := he
  cases hd with
  | nobyte =>
    rw [nobyteReturnsWaitingAndChangesNothing s he, nobyteReturnsWaitingAndChangesNothing _ he']
    exact h.with_slots h.fwd h.rev _
  | receiver ha =>
    obtain rfl : f = s.fwd := h.fwd.eq_of_avail ha
    exact exec_rxHandler_agree hi he h
  | sender => exact exec_txHandler_agree hi he h
  | command hr hs => exact exec_command_agree hr hs hwf hi he h

theorem OutcomeAgree.stopOnFault {x y : Result} (h : OutcomeAgree StaleAgree x y) :
    OutcomeAgree StaleAgree (stopOnFault x) (stopOnFault y) := by
  cases x <;> cases y
  case next.next s t =>
    have hfault : t.fault = s.fault := by rw [StaleAgree.rest h]
    simp only [Machine.stopOnFault, hfault]
    cases s.fault with
    | none => exact h
    | some g => rfl
  case fault.fault | refused.refused => exact h
  all_goals exact False.elim h

/-- The selectors do not read a stale byte (R88). -/
theorem StaleAgree.encodedMove_eq (h : StaleAgree s (restale pb tb f r s)) (m : Move) :
    encodedMove (restale pb tb f r s) m = encodedMove s m := by
  have hf : f.avail = s.fwd.avail := h.fwd.1.symm
  have hr : r.avail = s.rev.avail := h.rev.1.symm
  cases m with
  | stepRx => simp only [encodedMove, rxSelector, restale, hf]
  | stepTx => simp only [encodedMove, txSelector, restale, hr]
  | command code ops => rfl

theorem perform_agree (m : Move) (hi : Inv s) (he : Enabled s) (h : StaleAgree s (restale pb tb f r s)) :
    OutcomeAgree StaleAgree (perform m s) (perform m (restale pb tb f r s)) := by
  simp only [perform, fetch, h.encodedMove_eq]
  cases hd : decode (encodedMove s m) with
  | error e => rfl
  | ok i => exact (exec_dispatched_agree (dispatched_of_decode hd) (wf_of_decode hd) hi he h).stopOnFault

end Stale

/-- Settles O51: the next move decodes to the same operation in both states, which answers the same form of both. -/
theorem staleBytesAreNeverRead : Obligations.StaleBytesAreNeverRead := by
  intro s t hi h
  obtain ⟨pb, tb, f, r, rfl⟩ := h.exists_restale
  cases hf : s.fault with
  | some g =>
    rw [step_of_fault hf, step_of_fault (by exact hf)]
    rfl
  | none =>
    cases hs : s.sched with
    | nil =>
      rw [noMoveLeavesTheStateFrozen s hf hs, noMoveLeavesTheStateFrozen _ (by exact hf) (by exact hs)]
      exact h
    | cons m rest =>
      have hrest : StaleAgree { s with sched := rest } (restale pb tb f r { s with sched := rest }) :=
        ⟨rfl, h.fwd, h.rev, h.pbufLength, h.txbufLength, h.pbuf, h.txbuf⟩
      rw [step_cons hf hs, step_cons (by exact hf) (by exact hs)]
      exact perform_agree m (hi.with_sched rest) ⟨hf, hi.params⟩ hrest

end Sys2Proof.Machine

namespace Sys2Proof.Machine

/-! ## Proofs: the frame, put and taken byte by byte (spec/41_receiver.md, spec/42_sender.md R153)

A run of given moves is a chain of `perform`s. What a sender has still to put is a list of bytes, `Sender.toPut`; what a
receiver still expects of the frame of a payload is a list of bytes with the events they give, `Receiver.toTake`. A step of an
agent takes the head off its list. -/

/-! ### Runs of given moves -/

/-- The moves, performed one after the other from `s`, lead to `t`. -/
inductive Performs : List Move → State → State → Prop where
  | nil (s : State) : Performs [] s s
  | cons {m : Move} {ms : List Move} {s u t : State} (head : perform m s = .next u) (tail : Performs ms u t) :
      Performs (m :: ms) s t

section Performing

variable {s t u : State} {i : Instr} {m : Move} {ms ns rest : List Move}

theorem Performs.append (h : Performs ms s u) (k : Performs ns u t) : Performs (ms ++ ns) s t := by
  induction h with
  | nil => exact k
  | cons head _ ih => exact .cons head (ih k)

/-- Moves that stand first in the schedule are what the machine performs. -/
theorem Performs.run_eq (h : Performs ms s t) (hs : s.sched = ms ++ rest) :
    run ms.length s = .next { t with sched := rest } := by
  have hrun : run ms.length { s with sched := ms ++ rest } = .next { t with sched := rest } := by
    clear hs
    induction h with
    | nil => rfl
    | @cons m ms s u t head _ ih =>
      have hf : s.fault = none := (perform_next_enabled head).1
      have hstep : step { s with sched := m :: ms ++ rest } = .next { u with sched := ms ++ rest } := by
        rw [step_cons (by exact hf) (by exact rfl)]
        exact (perform_sched m s _).trans (by rw [head]; rfl)
      rw [List.length_cons, run_next hstep, ih]
  rwa [← hs] at hrun

/-- A move whose operation answers a state without a fault leads there. -/
theorem perform_of_exec (hd : decode (encodedMove s m) = .ok i) (h : exec i s = .next t) (hf : t.fault = none) :
    perform m s = .next t := by
  rw [perform_of_decode hd, h]
  simp only [stopOnFault, hf]

theorem perform_stepRx (hf : s.fault = none) :
    perform .stepRx s = exec (if s.fwd.avail then s.rx.phase.handler else .rxNobyte) s := by
  have hd := decodeSelector_rxSelector s
  rw [perform_of_decode (by exact hd), stopOnFault_exec hf (decodeSelector_isStart hd)]

theorem perform_stepTx (hf : s.fault = none) : perform .stepTx s = exec s.tx.phase.handler s := by
  have hd := decodeSelector_txSelector s
  rw [perform_of_decode (by exact hd), stopOnFault_exec hf (decodeSelector_isStart hd)]

theorem perform_tick (he : Enabled s) (hfits : tickFits s.params (s.clock + 1) = true) :
    perform Program.tick s = .next { s with clock := s.clock + 1, out := StepOut.zero } :=
  perform_of_exec rfl (exec_tick_of_enabled he hfits) he.1

theorem perform_putFwd (he : Enabled s) (b : Byte) :
    perform (Program.putFwd b) s = .next { s with fwd := slotPut s.fwd b, out := StepOut.zero } :=
  perform_of_exec rfl (exec_envPutFwd_of_enabled he b) he.1

end Performing

/-! ### What the sender has still to put -/

/-- R143 to R147: the bytes the current attempt has still to put. -/
def Sender.toPut (tx : Sender) : List Byte :=
  match tx.phase with
  | .emitStart => [wireStart, tx.len] ++ tx.txbuf.take tx.len.toNat ++ [tx.chk, wireEnd]
  | .emitLength => [tx.len] ++ tx.txbuf.take tx.len.toNat ++ [tx.chk, wireEnd]
  | .emitPayload => (tx.txbuf.take tx.len.toNat).drop tx.idx.toNat ++ [tx.chk, wireEnd]
  | .emitChecksum => [tx.chk, wireEnd]
  | .emitEnd => [wireEnd]
  | .idle | .waitEntry | .wait | .done => []

/-- The index is where the phase says, and the latched payload lies inside `txbuf`. -/
structure Sender.Indexed (tx : Sender) : Prop where
  buffer : tx.len.toNat ≤ tx.txbuf.length
  emitLength : tx.phase = .emitLength → tx.idx = 0
  emitPayload : tx.phase = .emitPayload → tx.idx.toNat < tx.len.toNat
  emitted : tx.phase.afterPayload = true → tx.idx = tx.len

section Putting

variable {s : State} {b : Byte} {bs : List Byte}

/-- The sender's registers with another index and phase: all that an emission writes of them. -/
abbrev Sender.movedTo (tx : Sender) (idx : Byte) (phase : TxPhase) : Sender := { tx with idx := idx, phase := phase }

/-- The next sender step puts `b` and moves the sender to where it has `bs` still to put. -/
structure PutsNext (s : State) (b : Byte) (bs : List Byte) (idx : Byte) (phase : TxPhase) : Prop where
  step : perform .stepTx s = .next (emitted b (s.tx.movedTo idx phase) s)
  toPut : (s.tx.movedTo idx phase).toPut = bs
  indexed : (s.tx.movedTo idx phase).Indexed
  inside : phase ≠ .idle ∧ phase ≠ .done
  last : bs = [] → phase = .waitEntry

/-- R144: the payload comes after the length, or at once the checksum. -/
theorem putsNext_emitLength (he : Enabled s) (hi : s.tx.Indexed) (hp : s.tx.phase = .emitLength)
    (hput : s.tx.toPut = b :: bs) : ∃ idx phase, PutsNext s b bs idx phase := by
  have hidx := hi.emitLength hp
  have hx := exec_txEmitLength_of_enabled he
  rw [← show s.tx.phase.handler = .txEmitLength by rw [hp]; rfl, ← perform_stepTx he.1] at hx
  simp only [Sender.toPut, hp, List.cons_append, List.nil_append, List.cons.injEq] at hput
  obtain ⟨rfl, rfl⟩ := hput
  by_cases hzero : s.tx.len = 0
  · rw [if_pos hzero] at hx
    exact ⟨_, _, hx, by simp [Sender.toPut, hzero], ⟨hi.buffer, nofun, nofun, fun _ => hidx.trans hzero.symm⟩,
      ⟨nofun, nofun⟩, by simp⟩
  · rw [if_neg hzero] at hx
    have hpos : s.tx.idx.toNat < s.tx.len.toNat := by rw [hidx]; bv_omega
    exact ⟨_, _, hx, by simp [Sender.toPut, hidx], ⟨hi.buffer, nofun, fun _ => hpos, nofun⟩, ⟨nofun, nofun⟩, by simp⟩

/-- R145: the next payload byte, and the checksum after the last. -/
theorem putsNext_emitPayload (he : Enabled s) (hi : s.tx.Indexed) (hp : s.tx.phase = .emitPayload)
    (hput : s.tx.toPut = b :: bs) : ∃ idx phase, PutsNext s b bs idx phase := by
  have hidx := hi.emitPayload hp
  have hbuf := hi.buffer
  have hin : s.tx.idx.toNat < (s.tx.txbuf.take s.tx.len.toNat).length := by simp; omega
  have hsucc := toNat_succ_of_lt hidx
  simp only [Sender.toPut, hp, List.drop_eq_getElem_cons hin, List.getElem_take, List.cons_append,
    List.cons.injEq] at hput
  obtain ⟨rfl, rfl⟩ := hput
  have hx := exec_txEmitPayload_of_enabled he (List.getElem?_eq_getElem (by omega))
  rw [← show s.tx.phase.handler = .txEmitPayload by rw [hp]; rfl, ← perform_stepTx he.1] at hx
  by_cases hlast : s.tx.idx + 1 = s.tx.len
  · rw [if_pos hlast] at hx
    have hend : s.tx.len.toNat = s.tx.idx.toNat + 1 := by rw [← hlast, hsucc]
    exact ⟨_, _, hx, by simp [Sender.toPut, hend], ⟨hbuf, nofun, nofun, fun _ => hlast⟩, ⟨nofun, nofun⟩, by simp⟩
  · rw [if_neg hlast] at hx
    have hmore : s.tx.idx.toNat + 1 ≠ s.tx.len.toNat := fun e => hlast (BitVec.eq_of_toNat_eq (hsucc.trans e))
    exact ⟨_, _, hx, by simp only [Sender.toPut, hp, hsucc],
      ⟨hbuf, by simp [hp], fun _ => by dsimp only; omega, by simp [hp, TxPhase.afterPayload]⟩, by simp [hp], by simp⟩

/-- An emission puts the head of what is still to put (R153). -/
theorem exists_putsNext (he : Enabled s) (hi : s.tx.Indexed) (hput : s.tx.toPut = b :: bs) :
    ∃ idx phase, PutsNext s b bs idx phase := by
  have hx := perform_stepTx he.1
  cases hp : s.tx.phase
  case emitLength => exact putsNext_emitLength he hi hp hput
  case emitPayload => exact putsNext_emitPayload he hi hp hput
  all_goals
    simp only [Sender.toPut, hp, List.cons_append, List.nil_append, List.cons.injEq, reduceCtorEq] at hput
  case emitStart =>
    obtain ⟨rfl, rfl⟩ := hput
    rw [hp, TxPhase.handler, exec_txEmitStart_of_enabled he] at hx
    exact ⟨_, _, hx, by simp [Sender.toPut], ⟨hi.buffer, fun _ => rfl, nofun, nofun⟩, ⟨nofun, nofun⟩, nofun⟩
  case emitChecksum =>
    obtain ⟨rfl, rfl⟩ := hput
    rw [hp, TxPhase.handler, exec_txEmitChecksum_of_enabled he] at hx
    exact ⟨_, _, hx, rfl, ⟨hi.buffer, nofun, nofun, fun _ => hi.emitted (by rw [hp]; rfl)⟩, ⟨nofun, nofun⟩, nofun⟩
  case emitEnd =>
    obtain ⟨rfl, rfl⟩ := hput
    rw [hp, TxPhase.handler, exec_txEmitEnd_of_enabled he] at hx
    exact ⟨_, _, hx, rfl, ⟨hi.buffer, nofun, nofun, fun _ => hi.emitted (by rw [hp]; rfl)⟩, ⟨nofun, nofun⟩, fun _ => rfl⟩

/-- A sender with bytes still to put is not at a wait, and one at the end of the attempt has none. -/
theorem Sender.toPut_eq_nil {tx : Sender} :
    tx.toPut = [] ↔ tx.phase = .idle ∨ tx.phase = .waitEntry ∨ tx.phase = .wait ∨ tx.phase = .done := by
  unfold Sender.toPut
  cases tx.phase <;> simp

/-- What the emissions of an attempt have written from `s` to `t`: the bytes `bs`, and the sender's index and phase. -/
structure Attempted (bs : List Byte) (s t : State) : Prop where
  trace : t.trace = s.trace ++ bs.map Event.txByte
  tx : t.tx = s.tx.movedTo t.tx.idx .waitEntry
  indexed : t.tx.Indexed
  avail : t.fwd.avail = true
  data : bs.getLast? = some t.fwd.data
  params : t.params = s.params
  rx : t.rx = s.rx
  rbuf : t.rbuf = s.rbuf
  rlen : t.rlen = s.rlen
  rev : t.rev = s.rev
  clock : t.clock = s.clock
  fault : t.fault = s.fault

/-- As many sender steps as bytes still to put put them in order, and end at WAIT_ENTRY. -/
theorem performs_toPut (he : Enabled s) (hi : s.tx.Indexed) (hput : s.tx.toPut = b :: bs) :
    ∃ t, Performs (List.replicate (b :: bs).length .stepTx) s t ∧ Attempted (b :: bs) s t := by
  induction bs generalizing s b with
  | nil =>
    obtain ⟨idx, phase, hnext⟩ := exists_putsNext he hi hput
    obtain rfl := hnext.last rfl
    exact ⟨_, .cons hnext.step (.nil _), rfl, rfl, hnext.indexed, rfl, rfl, rfl, rfl, rfl, rfl, rfl, rfl, rfl⟩
  | cons c bs ih =>
    obtain ⟨idx, phase, hnext⟩ := exists_putsNext he hi hput
    obtain ⟨t, ht, h⟩ := ih (s := emitted b (s.tx.movedTo idx phase) s) he hnext.indexed hnext.toPut
    have hdata : (b :: c :: bs).getLast? = some t.fwd.data := List.getLast?_cons_cons.trans h.data
    exact ⟨t, .cons hnext.step ht, by simp [h.trace, emitted], h.tx, h.indexed, h.avail, hdata, h.params, h.rx, h.rbuf,
      h.rlen, h.rev, h.clock, h.fault⟩

end Putting

/-- Settles O52: the sender at EMIT_START has the whole frame still to put. -/
theorem anAttemptPutsTheWholeFrame : Obligations.AnAttemptPutsTheWholeFrame := by
  intro s rest he hp hbuf hs
  have hi : s.tx.Indexed := ⟨hbuf, by simp [hp], by simp [hp], by simp [hp, TxPhase.afterPayload]⟩
  have hput : s.tx.toPut = wireStart :: ([s.tx.len] ++ s.tx.txbuf.take s.tx.len.toNat ++ [s.tx.chk, wireEnd]) := by
    simp [Sender.toPut, hp]
  obtain ⟨t, ht, h⟩ := performs_toPut he hi hput
  have hlength : (wireStart :: ([s.tx.len] ++ s.tx.txbuf.take s.tx.len.toNat ++ [s.tx.chk, wireEnd])).length =
      4 + s.tx.len.toNat := by
    simp
    omega
  rw [hlength] at ht
  have hrun := ht.run_eq hs
  rw [List.length_replicate] at hrun
  have htx : t.tx = s.tx.movedTo s.tx.len .waitEntry := by
    have hidx : t.tx.idx = s.tx.len := (h.indexed.emitted (by rw [h.tx]; rfl)).trans (by rw [h.tx])
    rw [h.tx, hidx]
  have hlast : wireEnd = t.fwd.data := by simpa [List.getLast?_cons] using h.data
  exact ⟨_, hrun, h.trace, htx, h.avail, hlast.symm, h.rx, h.rbuf, h.rlen, h.rev, h.clock,
    h.fault.trans he.1, rfl⟩

end Sys2Proof.Machine

namespace Sys2Proof.Machine

/-! ## Proofs: a frame taken byte by byte (spec/41_receiver.md R125) -/

/-! ### What the receiver still expects of a frame -/

/-- A payload byte and the event it gives (R115). -/
def payloadTaken (b : Byte) : Byte × Event := (b, .rxPayload b)

/-- START, LENGTH and the payload of the frame of `p`, with their events (R112 to R115). -/
def headTaken (p : List Byte) : List (Byte × Event) :=
  [(wireStart, .rxStart), (BitVec.ofNat 8 p.length, .rxLength (BitVec.ofNat 8 p.length))] ++ p.map payloadTaken

/-- The checksum and END of the frame of `p`, with their events (R117, R119). -/
def trailerTaken (p : List Byte) : List (Byte × Event) :=
  [(checksum p, .rxChecksumOk), (wireEnd, .rxAccept (BitVec.ofNat 8 p.length))]

/-- What a receiver still expects of the frame of `p`, with the events the bytes give (R112 to R119). -/
def Receiver.toTake (p : List Byte) (rx : Receiver) : List (Byte × Event) :=
  match rx.phase with
  | .awaitStart => headTaken p ++ trailerTaken p
  | .readLength => [(BitVec.ofNat 8 p.length, .rxLength (BitVec.ofNat 8 p.length))] ++ p.map payloadTaken ++ trailerTaken p
  | .readPayload => (p.drop rx.count.toNat).map payloadTaken ++ trailerTaken p
  | .verifyChecksum => trailerTaken p
  | .awaitEnd => [(wireEnd, .rxAccept (BitVec.ofNat 8 p.length))]

/-- What the receiver has collected so far is the beginning of `p`. -/
structure Receiver.Collects (p : List Byte) (rx : Receiver) : Prop where
  buffer : p.length ≤ rx.pbuf.length
  readLength : rx.phase = .readLength → rx.count = 0 ∧ rx.acc = 0
  readPayload : rx.phase = .readPayload →
    rx.expLen = BitVec.ofNat 8 p.length ∧ rx.count.toNat < p.length ∧
      rx.pbuf.take rx.count.toNat = p.take rx.count.toNat ∧ rx.acc = checksum (p.take rx.count.toNat)
  collected : rx.phase = .verifyChecksum ∨ rx.phase = .awaitEnd →
    rx.expLen = BitVec.ofNat 8 p.length ∧ rx.pbuf.take p.length = p ∧ rx.acc = checksum p

section Taking

variable {s : State} {p : List Byte} {ev : Event} {x : Byte × Event} {rest : List (Byte × Event)}

theorem cap_le_of_paramsOk {q : Params} (h : paramsOk q = true) : q.cap ≤ 255 := by
  simp only [paramsOk, Bool.and_eq_true, decide_eq_true_eq] at h
  exact h.1.2

/-- A payload of at most CAP bytes has a length that a Byte holds (R6, R82). -/
theorem Enabled.length_toNat (he : Enabled s) (hcap : p.length ≤ s.params.cap) :
    (BitVec.ofNat 8 p.length).toNat = p.length := by
  have h := cap_le_of_paramsOk he.2
  rw [BitVec.toNat_ofNat, Nat.mod_eq_of_lt (by omega)]

/-- The next receiver step takes a byte with the event `ev` and leaves the receiver where it expects `rest`. -/
structure TakesNext (p : List Byte) (s : State) (ev : Event) (rest : List (Byte × Event)) (rx : Receiver) : Prop where
  step : perform .stepRx s = .next (taken rx ev s)
  toTake : rx.toTake p = rest
  collects : rx.Collects p

theorem perform_stepRx_of_avail (he : Enabled s) (ha : s.fwd.avail = true) :
    perform .stepRx s = exec s.rx.phase.handler s := by
  rw [perform_stepRx he.1, if_pos ha]

/-- R113: LENGTH leads to the payload, or for an empty one to the checksum. -/
theorem takesNext_readLength (he : Enabled s) (ha : s.fwd.avail = true) (hc : s.rx.Collects p)
    (hcap : p.length ≤ s.params.cap) (hp : s.rx.phase = .readLength)
    (htake : s.rx.toTake p = (s.fwd.data, ev) :: x :: rest) : ∃ rx, TakesNext p s ev (x :: rest) rx := by
  obtain ⟨hcount, hacc⟩ := hc.readLength hp
  have hlen := he.length_toNat hcap
  have hx := exec_rxReadLength_of_enabled he
  rw [← show s.rx.phase.handler = .rxReadLength by rw [hp]; rfl, ← perform_stepRx_of_avail he ha] at hx
  simp only [Receiver.toTake, hp, List.cons_append, List.nil_append, List.cons.injEq, Prod.mk.injEq] at htake
  obtain ⟨⟨hdata, rfl⟩, hrest⟩ := htake
  by_cases hzero : p.length = 0
  · obtain rfl : p = [] := List.eq_nil_of_length_eq_zero hzero
    have hb : lengthBranch s.params.cap s.fwd.data = (.verifyChecksum, .rxLength 0) := by simp [← hdata, lengthBranch]
    rw [hb] at hx
    exact ⟨_, hx, hrest, ⟨hc.buffer, nofun, nofun, fun _ => ⟨hdata.symm, rfl, hacc⟩⟩⟩
  · have hne : s.fwd.data ≠ 0 := by
      intro e
      rw [← hdata] at e
      exact hzero (hlen.symm.trans (by rw [e]; rfl))
    have hb : lengthBranch s.params.cap s.fwd.data = (.readPayload, .rxLength s.fwd.data) := by
      rw [lengthBranch, if_neg (by rw [← hdata, hlen]; omega), if_neg hne]
    rw [hb] at hx
    have hpos : s.rx.count.toNat < p.length := by rw [hcount]; exact Nat.pos_of_ne_zero hzero
    exact ⟨{ s.rx with expLen := s.fwd.data, phase := .readPayload }, by rw [hdata]; exact hx,
      by simpa [Receiver.toTake, hcount] using hrest,
      ⟨hc.buffer, nofun, fun _ => ⟨hdata.symm, hpos, by simp [hcount], by simp [hcount, hacc]⟩, by simp⟩⟩

/-- The next byte of `p` is stored and folded (R115). -/
theorem collect_next {buf : Buffer} {k : Nat} {acc : Byte} (hp : k < p.length) (hbuf : k < buf.length)
    (hprefix : buf.take k = p.take k) (hacc : acc = checksum (p.take k)) :
    (buf.set k p[k]).take (k + 1) = p.take (k + 1) ∧ acc ^^^ p[k] = checksum (p.take (k + 1)) := by
  have hnext : p.take (k + 1) = p.take k ++ [p[k]] := (List.take_append_getElem hp).symm
  rw [writeBuf_take (writeBuf_eq_some.mpr ⟨hbuf, rfl⟩), hnext, checksum_snoc, hprefix, hacc]
  exact ⟨rfl, rfl⟩

/-- R115: the next payload byte, and the checksum after the last. -/
theorem takesNext_readPayload (he : Enabled s) (ha : s.fwd.avail = true) (hc : s.rx.Collects p)
    (hcap : p.length ≤ s.params.cap) (hp : s.rx.phase = .readPayload)
    (htake : s.rx.toTake p = (s.fwd.data, ev) :: x :: rest) : ∃ rx, TakesNext p s ev (x :: rest) rx := by
  obtain ⟨hexp, hcount, hprefix, hacc⟩ := hc.readPayload hp
  have hlen := he.length_toNat hcap
  have hbuf := hc.buffer
  have hidx : s.rx.count.toNat < s.rx.pbuf.length := by omega
  have hsucc : (s.rx.count + 1).toNat = s.rx.count.toNat + 1 := toNat_succ_of_lt (n := BitVec.ofNat 8 p.length) (by omega)
  have hx := readPayloadCollectsOneByte s he hidx
  rw [← show s.rx.phase.handler = .rxReadPayload by rw [hp]; rfl, ← perform_stepRx_of_avail he ha] at hx
  simp only [Receiver.toTake, hp, List.drop_eq_getElem_cons hcount, List.map_cons, List.cons_append, List.cons.injEq,
    payloadTaken, Prod.mk.injEq] at htake
  obtain ⟨⟨hdata, rfl⟩, hrest⟩ := htake
  obtain ⟨hbuf', hacc'⟩ := collect_next hcount hidx hprefix hacc
  rw [← hdata] at hx
  by_cases hlast : s.rx.count + 1 = s.rx.expLen
  · rw [if_pos hlast] at hx
    have hend : s.rx.count.toNat + 1 = p.length := by rw [← hsucc, hlast, hexp, hlen]
    rw [hend, List.take_length] at hbuf' hacc'
    rw [hend, List.drop_length] at hrest
    exact ⟨_, hx, hrest, ⟨by simpa using hbuf, nofun, nofun, fun _ => ⟨hexp, hbuf', hacc'⟩⟩⟩
  · rw [if_neg hlast] at hx
    have hmore : s.rx.count.toNat + 1 ≠ p.length :=
      fun e => hlast (BitVec.eq_of_toNat_eq (by rw [hsucc, hexp, hlen, e]))
    rw [← hsucc] at hmore hbuf' hacc' hrest
    exact ⟨_, hx, by simpa only [Receiver.toTake, hp] using hrest, ⟨by simpa using hbuf, by simp [hp],
      fun _ => ⟨hexp, by dsimp only; omega, hbuf', hacc'⟩, by simp [hp]⟩⟩

/-- A receiver step on the byte it expects takes the head off what it expects, unless it is the last byte. -/
theorem exists_takesNext (he : Enabled s) (ha : s.fwd.avail = true) (hc : s.rx.Collects p)
    (hcap : p.length ≤ s.params.cap) (htake : s.rx.toTake p = (s.fwd.data, ev) :: x :: rest) :
    ∃ rx, TakesNext p s ev (x :: rest) rx := by
  have hx := perform_stepRx_of_avail he ha
  cases hp : s.rx.phase with
  | awaitStart =>
    simp only [Receiver.toTake, hp, headTaken, List.cons_append, List.nil_append, List.cons.injEq,
      Prod.mk.injEq] at htake
    obtain ⟨⟨hdata, rfl⟩, rfl, rfl⟩ := htake
    rw [hp, RxPhase.handler, (awaitStartLooksForTheStartMarker s he).1 hdata.symm] at hx
    exact ⟨_, hx, rfl, ⟨hc.buffer, fun _ => ⟨rfl, rfl⟩, nofun, by simp⟩⟩
  | readLength => exact takesNext_readLength he ha hc hcap hp htake
  | readPayload => exact takesNext_readPayload he ha hc hcap hp htake
  | verifyChecksum =>
    obtain ⟨hexp, hbuf, hacc⟩ := hc.collected (.inl hp)
    simp only [Receiver.toTake, hp, trailerTaken, List.cons.injEq, Prod.mk.injEq] at htake
    obtain ⟨⟨hdata, rfl⟩, rfl, rfl⟩ := htake
    rw [hp, RxPhase.handler, (verifyChecksumComparesWithTheFold s he).1 (hdata.symm.trans hacc.symm)] at hx
    exact ⟨_, hx, rfl, ⟨hc.buffer, nofun, nofun, fun _ => ⟨hexp, hbuf, hacc⟩⟩⟩
  | awaitEnd => simp [Receiver.toTake, hp] at htake

theorem Receiver.toTake_ne_nil (p : List Byte) (rx : Receiver) : rx.toTake p ≠ [] := by
  unfold Receiver.toTake
  cases rx.phase <;> simp [trailerTaken]

/-- Only in AwaitEnd does the receiver expect one byte. -/
theorem phase_of_toTake_singleton {rx : Receiver} (h : rx.toTake p = [x]) : rx.phase = .awaitEnd := by
  have hlength := congrArg List.length h
  cases hp : rx.phase <;> simp [Receiver.toTake, headTaken, trailerTaken, hp] at hlength ⊢

/-- The last byte the receiver expects is END, and it accepts (R119, R120). -/
theorem perform_accepts (he : Enabled s) (ha : s.fwd.avail = true) (hc : s.rx.Collects p)
    (hcap : p.length ≤ s.params.cap) (hrbuf : p.length ≤ s.rbuf.length) (htake : s.rx.toTake p = [(s.fwd.data, ev)]) :
    perform .stepRx s = .next (acked (p ++ s.rbuf.drop p.length) (BitVec.ofNat 8 p.length)
      (taken { s.rx with phase := .awaitStart } (.rxAccept (BitVec.ofNat 8 p.length)) s)) := by
  have hp := phase_of_toTake_singleton htake
  obtain ⟨hexp, hbuf, -⟩ := hc.collected (.inr hp)
  have hlen : s.rx.expLen.toNat = p.length := by rw [hexp, he.length_toNat hcap]
  simp only [Receiver.toTake, hp, List.cons.injEq, Prod.mk.injEq] at htake
  rw [perform_stepRx_of_avail he ha, hp, RxPhase.handler,
    (awaitEndAcceptsOrDiscards s he).1 htake.1.1.symm (by rw [hlen]; exact hc.buffer) (by rwa [hlen]), hlen, hbuf, hexp]
  rfl

end Taking

end Sys2Proof.Machine

namespace Sys2Proof.Machine

/-! ## Proofs: feeding the receiver (spec/41_receiver.md R117, R125, spec/43_environment.md R190) -/

section Feeding

variable {s t u : State} {p : List Byte} {b : Byte} {ev : Event} {x : Byte × Event} {rest : List (Byte × Event)}

/-- What bytes fed to the receiver leave, as long as it accepts no frame; FWD is empty again. -/
structure Fed (s t : State) : Prop where
  params : t.params = s.params
  rbuf : t.rbuf = s.rbuf
  rlen : t.rlen = s.rlen
  rev : t.rev = s.rev
  tx : t.tx = s.tx
  clock : t.clock = s.clock
  fault : t.fault = s.fault
  empty : t.fwd.avail = false
  overrun : t.fwd.overrun = s.fwd.overrun

theorem Fed.trans (h : Fed s u) (k : Fed u t) : Fed s t :=
  ⟨k.params.trans h.params, k.rbuf.trans h.rbuf, k.rlen.trans h.rlen, k.rev.trans h.rev, k.tx.trans h.tx,
    k.clock.trans h.clock, k.fault.trans h.fault, k.empty, k.overrun.trans h.overrun⟩

theorem Fed.enabled (h : Fed s t) (he : Enabled s) : Enabled t :=
  ⟨h.fault.trans he.1, by rw [h.params]; exact he.2⟩

/-- FWD with the byte `b` put and nothing else done. -/
abbrev withPut (b : Byte) (s : State) : State := { s with fwd := slotPut s.fwd b, out := StepOut.zero }

theorem fed_taken (ha : s.fwd.avail = false) (rx : Receiver) : Fed s (taken rx ev (withPut b s)) :=
  ⟨rfl, rfl, rfl, rfl, rfl, rfl, rfl, rfl, by simp [taken, ha]⟩

theorem feedAll_cons (b : Byte) (bs : List Byte) : Program.feedAll (b :: bs) = Program.feed b ++ Program.feedAll bs :=
  List.flatMap_cons

theorem feedAll_append (bs cs : List Byte) :
    Program.feedAll (bs ++ cs) = Program.feedAll bs ++ Program.feedAll cs :=
  List.flatMap_append

theorem feedAll_length (bs : List Byte) : (Program.feedAll bs).length = 2 * bs.length := by
  induction bs with
  | nil => rfl
  | cons b bs ih =>
    rw [feedAll_cons, List.length_append, ih, Program.feed, List.length_cons]
    simp
    omega

@[simp] theorem fst_comp_payloadTaken : Prod.fst ∘ payloadTaken = id := rfl

@[simp] theorem snd_comp_payloadTaken : Prod.snd ∘ payloadTaken = Event.rxPayload := rfl

/-- One byte the receiver expects is fed to it. -/
theorem performs_feed (he : Enabled s) (ha : s.fwd.avail = false) (hc : s.rx.Collects p)
    (hcap : p.length ≤ s.params.cap) (htake : s.rx.toTake p = (b, ev) :: x :: rest) :
    ∃ t, Performs (Program.feed b) s t ∧ t.rx.toTake p = x :: rest ∧ t.rx.Collects p ∧ t.trace = s.trace ++ [ev] ∧
      Fed s t := by
  obtain ⟨rx, hnext⟩ := exists_takesNext (s := withPut b s) he rfl hc hcap htake
  exact ⟨_, .cons (perform_putFwd he b) (.cons hnext.step (.nil _)), hnext.toTake, hnext.collects, rfl, fed_taken ha rx⟩

/-- Bytes the receiver expects, but for the last, are fed to it. -/
theorem performs_feedAll {xs : List (Byte × Event)} (he : Enabled s) (ha : s.fwd.avail = false) (hc : s.rx.Collects p)
    (hcap : p.length ≤ s.params.cap) (htake : s.rx.toTake p = xs ++ x :: rest) :
    ∃ t, Performs (Program.feedAll (xs.map Prod.fst)) s t ∧ t.rx.toTake p = x :: rest ∧ t.rx.Collects p ∧
      t.trace = s.trace ++ xs.map Prod.snd ∧ Fed s t := by
  induction xs generalizing s with
  | nil => exact ⟨s, .nil s, htake, hc, by simp, ⟨rfl, rfl, rfl, rfl, rfl, rfl, rfl, ha, rfl⟩⟩
  | cons y xs ih =>
    obtain ⟨z, zs, hz⟩ : ∃ z zs, xs ++ x :: rest = z :: zs := by cases xs <;> exact ⟨_, _, rfl⟩
    rw [List.cons_append, hz] at htake
    obtain ⟨u, hu, htake', hc', htrace, hfed⟩ := performs_feed (b := y.1) he ha hc hcap htake
    obtain ⟨t, ht, htake'', hc'', htrace', hfed'⟩ :=
      ih (hfed.enabled he) hfed.empty hc' (by rwa [hfed.params]) (htake'.trans hz.symm)
    refine ⟨t, ?_, htake'', hc'', by simp [htrace', htrace], hfed.trans hfed'⟩
    rw [List.map_cons, feedAll_cons]
    exact hu.append ht

/-- A receiver in AwaitStart expects the whole frame (R112). -/
theorem toTake_of_awaitStart (hp : s.rx.phase = .awaitStart) : s.rx.toTake p = headTaken p ++ trailerTaken p := by
  simp [Receiver.toTake, hp]

theorem collects_of_awaitStart (hbuf : p.length ≤ s.rx.pbuf.length) (hp : s.rx.phase = .awaitStart) :
    s.rx.Collects p :=
  ⟨hbuf, by simp [hp], by simp [hp], by simp [hp]⟩

/-- A receiver that has the whole payload expects the checksum. -/
theorem phase_of_toTake_trailer {rx : Receiver} (h : rx.toTake p = trailerTaken p) (hc : rx.Collects p) :
    rx.phase = .verifyChecksum := by
  have hlength := congrArg List.length h
  have hcount := hc.readPayload
  cases hp : rx.phase <;> simp [Receiver.toTake, headTaken, trailerTaken, hp] at hlength hcount ⊢
  omega

/-- Fed bytes that lead from the schedule's state to `t` are so many steps of the machine. -/
theorem Performs.run_feedAll {bs : List Byte} {ms : List Move} (h : Performs (Program.feedAll bs) s t)
    (hs : s.sched = Program.feedAll bs ++ ms) : run (2 * bs.length) s = .next { t with sched := ms } := by
  rw [← feedAll_length]
  exact h.run_eq hs

theorem Performs.feedAll_snoc {bs : List Byte} (h : Performs (Program.feedAll bs) s u) (hput : Enabled u)
    (hstep : perform .stepRx (withPut b u) = .next t) : Performs (Program.feedAll (bs ++ [b])) s t := by
  rw [feedAll_append]
  exact h.append (.cons (perform_putFwd hput b) (.cons hstep (.nil t)))

end Feeding

/-- Settles O53: all of the frame but END is taken byte by byte, and END is the accept. -/
theorem aFrameFedInIsAccepted : Obligations.AFrameFedInIsAccepted := by
  intro s p rest he hwf hcap hp ha hs
  obtain ⟨hpbuf, hrbuf, -⟩ := hwf
  have hc : s.rx.Collects p := collects_of_awaitStart (by omega) hp
  have htake : s.rx.toTake p = (headTaken p ++ [(checksum p, .rxChecksumOk)]) ++
      (wireEnd, .rxAccept (BitVec.ofNat 8 p.length)) :: [] := by
    simp [toTake_of_awaitStart hp, trailerTaken]
  obtain ⟨t, ht, htake', hc', htrace, hfed⟩ := performs_feedAll he ha hc hcap htake
  have het := hfed.enabled he
  have hperforms := ht.feedAll_snoc het (perform_accepts (s := withPut wireEnd t) het rfl hc' (by rwa [hfed.params])
    (by rw [hfed.rbuf]; omega) htake')
  have hbytes : (headTaken p ++ [(checksum p, Event.rxChecksumOk)]).map Prod.fst ++ [wireEnd] =
      [0x02, BitVec.ofNat 8 p.length] ++ p ++ [checksum p, 0x03] := by
    simp [headTaken, wireStart, wireEnd]
  rw [hbytes] at hperforms
  have hrun := hperforms.run_feedAll hs
  have hlength : 2 * ([0x02, BitVec.ofNat 8 p.length] ++ p ++ [checksum p, 0x03]).length = 2 * (4 + p.length) := by
    simp
    omega
  rw [hlength] at hrun
  refine ⟨_, hrun, rfl, he.length_toNat hcap, by simp [acked, taken, hfed.rbuf], ?_, rfl, ?_, hfed.tx, hfed.clock,
    het.1, ?_, rfl⟩
  · simp [acked, taken, slotPut, wireAck, hfed.rev]
  · simp [acked, taken, hfed.empty, hfed.overrun]
  · simp [acked, taken, htrace, headTaken]

/-- Settles O54: the payload is taken byte by byte, and the byte in the checksum's place is no match. -/
theorem aWrongChecksumIsRejected : Obligations.AWrongChecksumIsRejected := by
  intro s p c rest he hwf hcap hp ha hne hs
  obtain ⟨hpbuf, -, -⟩ := hwf
  have hc : s.rx.Collects p := collects_of_awaitStart (by omega) hp
  obtain ⟨t, ht, htake, hc', htrace, hfed⟩ := performs_feedAll he ha hc hcap (toTake_of_awaitStart hp)
  have het := hfed.enabled he
  have hphase : t.rx.phase = .verifyChecksum := phase_of_toTake_trailer htake hc'
  obtain ⟨-, -, hacc⟩ := hc'.collected (.inl hphase)
  have hreject := (verifyChecksumComparesWithTheFold (withPut c t) het).2 fun e => hne (e.trans hacc)
  rw [← show (withPut c t).rx.phase.handler = .rxVerifyChecksum by rw [hphase]; rfl,
    ← perform_stepRx_of_avail (s := withPut c t) het rfl] at hreject
  have hperforms := ht.feedAll_snoc het hreject
  have hbytes : (headTaken p).map Prod.fst ++ [c] = [0x02, BitVec.ofNat 8 p.length] ++ p ++ [c] := by
    simp [headTaken, wireStart]
  rw [hbytes] at hperforms
  have hrun := hperforms.run_feedAll hs
  have hlength : 2 * ([0x02, BitVec.ofNat 8 p.length] ++ p ++ [c]).length = 2 * (3 + p.length) := by
    simp
    omega
  rw [hlength] at hrun
  exact ⟨_, hrun, rfl, hfed.rlen, hfed.rbuf, hfed.rev, hfed.tx, by simp [htrace, hacc, headTaken], het.1, rfl⟩

/-- A byte other than START leaves a receiver in AwaitStart as it is (R112). -/
theorem performs_feed_noise {s : State} {b : Byte} (he : Enabled s) (hp : s.rx.phase = .awaitStart) (hb : b ≠ 0x02) :
    Performs (Program.feed b) s (taken s.rx (.rxNoise b) (withPut b s)) := by
  have he' : Enabled (withPut b s) := he
  have hnoise := (awaitStartLooksForTheStartMarker (withPut b s) he').2 hb
  rw [← show (withPut b s).rx.phase.handler = .rxAwaitStart by rw [hp]; rfl,
    ← perform_stepRx_of_avail (s := withPut b s) he' rfl] at hnoise
  exact .cons (perform_putFwd he b) (.cons hnoise (.nil _))

theorem performs_feedAll_noise {s : State} {g : List Byte} (he : Enabled s) (hp : s.rx.phase = .awaitStart)
    (ha : s.fwd.avail = false) (hg : ∀ b ∈ g, b ≠ 0x02) :
    ∃ t, Performs (Program.feedAll g) s t ∧ t.rx = s.rx ∧ t.trace = s.trace ++ g.map Event.rxNoise ∧ Fed s t := by
  induction g generalizing s with
  | nil => exact ⟨s, .nil s, rfl, by simp, ⟨rfl, rfl, rfl, rfl, rfl, rfl, rfl, ha, rfl⟩⟩
  | cons b g ih =>
    have hfeed := performs_feed_noise he hp (hg b List.mem_cons_self)
    have hfed : Fed s (taken s.rx (.rxNoise b) (withPut b s)) := fed_taken ha s.rx
    obtain ⟨t, ht, hrx, htrace, hfed'⟩ :=
      ih (hfed.enabled he) hp hfed.empty fun c hc => hg c (List.mem_cons_of_mem b hc)
    exact ⟨t, feedAll_cons b g ▸ hfeed.append ht, hrx, by simp [htrace, taken], hfed.trans hfed'⟩

/-- Settles O55: each byte is noise. -/
theorem garbageWithoutStartIsDropped : Obligations.GarbageWithoutStartIsDropped := by
  intro s g rest he hp ha hg hs
  obtain ⟨t, ht, hrx, htrace, hfed⟩ := performs_feedAll_noise he hp ha hg
  exact ⟨_, ht.run_feedAll hs, hrx, hfed.rbuf, hfed.rlen, hfed.tx, hfed.rev, hfed.empty, hfed.overrun, htrace,
    hfed.fault.trans he.1, rfl⟩

end Sys2Proof.Machine

namespace Sys2Proof.Machine

/-! ## Proofs: a whole transmission under a cycle (spec/43_environment.md R192, spec/70_reset_and_hazards.md R242)

`Sending` says how far a transmission has come: the byte in FWD, if any, and what the sender has still to put are together
what the receiver still expects. A sender step fills FWD, a receiver step empties it and takes the head off, a tick only
counts; the two cycles are two orders of these moves. -/

/-! ### The start -/

/-- What TX_START of `p` makes of a state in which it is allowed (R141). -/
def latched (p : List Byte) (s : State) : State :=
  { s with
    tx := { s.tx with
      txbuf := p ++ s.tx.txbuf.drop p.length
      len := BitVec.ofNat 8 p.length
      chk := checksum p
      retry := 0
      idx := 0
      phase := .emitStart }
    trace := s.trace ++ [.txStart (BitVec.ofNat 8 p.length)]
    out := StepOut.zero }

section Start

variable {s : State} {p : List Byte}

theorem perform_txStart (he : Enabled s) (hcap : p.length ≤ s.params.cap) (hbuf : p.length ≤ s.tx.txbuf.length)
    (hp : s.tx.phase = .idle ∨ s.tx.phase = .done) : perform (Program.txStart p) s = .next (latched p s) := by
  have hlen := he.length_toNat hcap
  have hx := exec_txStart_latches he (len := BitVec.ofNat 8 p.length) hlen.symm hp (hlen.le.trans hcap)
    (hlen.le.trans hbuf)
  rw [hlen] at hx
  exact perform_of_exec (decode_txStart.mpr ⟨rfl, hlen.symm⟩) hx he.1

theorem latched_indexed (he : Enabled s) (hcap : p.length ≤ s.params.cap) : (latched p s).tx.Indexed := by
  have hlen := he.length_toNat hcap
  refine ⟨?_, nofun, nofun, nofun⟩
  dsimp only [latched]
  rw [hlen, List.length_append]
  omega

/-- After TX_START the sender has the frame of `p` to put (R81, R153). -/
theorem latched_toPut (he : Enabled s) (hcap : p.length ≤ s.params.cap) : (latched p s).tx.toPut = frame p := by
  have hlen := he.length_toNat hcap
  simp [Sender.toPut, latched, hlen, frame]

/-- A receiver in AwaitStart expects the bytes of the frame (R81, R125). -/
theorem map_fst_taken (p : List Byte) : (headTaken p ++ trailerTaken p).map Prod.fst = frame p := by
  simp [headTaken, trailerTaken, frame]

end Start

/-! ### The way -/

/-- The byte in a slot, if there is one. -/
def Slot.bytes (sl : Slot) : List Byte := if sl.avail then [sl.data] else []

/-- A transmission of `p` that began in `s₀` has come to `s`, `n` ticks later: the receiver expects `ys`, and FWD holds a byte
or not. Neither a result nor an ACK has been written. -/
structure Sending (p : List Byte) (s₀ : State) (n : Nat) (full : Bool) (ys : List (Byte × Event)) (s : State) :
    Prop where
  enabled : Enabled s
  params : s.params = s₀.params
  rbuf : s.rbuf = s₀.rbuf
  rlen : s.rlen = s₀.rlen
  rev : s.rev = s₀.rev
  retry : s.tx.retry = s₀.tx.retry
  clock : s.clock = s₀.clock + n
  overrun : s.fwd.overrun = s₀.fwd.overrun
  avail : s.fwd.avail = full
  toTake : s.rx.toTake p = ys
  toPut : s.fwd.bytes ++ s.tx.toPut = ys.map Prod.fst
  waits : s.tx.toPut = [] → s.tx.phase = .waitEntry
  indexed : s.tx.Indexed
  collects : s.rx.Collects p

/-- The receiver has accepted, `n` ticks after `s₀`: the payload is decoded and FWD is empty. -/
structure Delivered (p : List Byte) (s₀ : State) (n : Nat) (s : State) : Prop where
  enabled : Enabled s
  params : s.params = s₀.params
  rbuf : s.rbuf = p ++ s₀.rbuf.drop p.length
  rlen : s.rlen = BitVec.ofNat 8 p.length
  rx : s.rx.phase = .awaitStart
  retry : s.tx.retry = s₀.tx.retry
  clock : s.clock = s₀.clock + n
  fwd : s.fwd.avail = false
  fwdOverrun : s.fwd.overrun = s₀.fwd.overrun
  revOverrun : s.rev.overrun = s₀.rev.overrun

/-- The ACK waits for the sender's first wait step. -/
structure AckPending (s : State) : Prop where
  tx : s.tx.phase = .waitEntry
  avail : s.rev.avail = true
  data : s.rev.data = wireAck

/-- The sender has taken the ACK. -/
structure Finished (s : State) : Prop where
  tx : s.tx.phase = .done
  rev : s.rev.avail = false

section Moves

variable {p : List Byte} {s₀ s : State} {n : Nat} {full : Bool} {x y : Byte × Event} {xs ys : List (Byte × Event)}

/-- A tick that fits leaves room for every earlier one (R6). -/
theorem tickFits_mono {q : Params} {a b : Nat} (hab : a ≤ b) (h : tickFits q b = true) : tickFits q a = true := by
  unfold tickFits at *
  split at h
  · rfl
  · simp only [decide_eq_true_eq] at h ⊢
    omega

theorem Sending.puts (h : Sending p s₀ n false (y :: ys) s) :
    ∃ t, perform .stepTx s = .next t ∧ Sending p s₀ n true (y :: ys) t := by
  have hput : s.tx.toPut = y.1 :: ys.map Prod.fst := by simpa [Slot.bytes, h.avail] using h.toPut
  obtain ⟨idx, phase, hnext⟩ := exists_putsNext h.enabled h.indexed hput
  exact ⟨_, hnext.step, h.enabled, h.params, h.rbuf, h.rlen, h.rev, h.retry, h.clock,
    by simp [emitted, h.avail, h.overrun], rfl, h.toTake, by simp [emitted, Slot.bytes, hnext.toPut], fun he => hnext.last (hnext.toPut.symm.trans he),
    hnext.indexed, h.collects⟩

theorem Sending.takes (hcap : p.length ≤ s₀.params.cap) (h : Sending p s₀ n true (y :: x :: ys) s) :
    ∃ t, perform .stepRx s = .next t ∧ Sending p s₀ n false (x :: ys) t := by
  obtain ⟨hdata, hput⟩ : s.fwd.data = y.1 ∧ s.tx.toPut = (x :: ys).map Prod.fst := by
    simpa [Slot.bytes, h.avail] using h.toPut
  have htake : s.rx.toTake p = (s.fwd.data, y.2) :: x :: ys := by rw [h.toTake, hdata]
  obtain ⟨rx, hnext⟩ := exists_takesNext h.enabled h.avail h.collects (by rwa [h.params]) htake
  exact ⟨_, hnext.step, h.enabled, h.params, h.rbuf, h.rlen, h.rev, h.retry, h.clock, h.overrun, rfl, hnext.toTake,
    by simp [taken, Slot.bytes, hput], h.waits, h.indexed, hnext.collects⟩

theorem Sending.ticks (h : Sending p s₀ n full ys s) (hfits : tickFits s₀.params (s₀.clock + (n + 1)) = true) :
    ∃ t, perform Program.tick s = .next t ∧ Sending p s₀ (n + 1) full ys t := by
  have hfits' : tickFits s.params (s.clock + 1) = true := by rwa [h.params, h.clock, Nat.add_assoc]
  exact ⟨_, perform_tick h.enabled hfits', h.enabled, h.params, h.rbuf, h.rlen, h.rev, h.retry,
    by rw [h.clock, Nat.add_assoc], h.overrun, h.avail, h.toTake, h.toPut, h.waits, h.indexed, h.collects⟩

theorem perform_nobyte (he : Enabled s) (ha : s.fwd.avail = false) :
    perform .stepRx s = .next { s with out := { StepOut.zero with rxStatus := 0b00 } } := by
  rw [perform_stepRx he.1, ha]
  exact nobyteReturnsWaitingAndChangesNothing s he

theorem Sending.idles (h : Sending p s₀ n false ys s) :
    ∃ t, perform .stepRx s = .next t ∧ Sending p s₀ n false ys t :=
  ⟨_, perform_nobyte h.enabled h.avail, h.enabled, h.params, h.rbuf, h.rlen, h.rev, h.retry, h.clock, h.overrun, h.avail,
    h.toTake, h.toPut, h.waits, h.indexed, h.collects⟩

theorem Sending.accepts (hcap : p.length ≤ s₀.params.cap) (hrbuf : p.length ≤ s₀.rbuf.length)
    (hrev : s₀.rev.avail = false) (h : Sending p s₀ n true [y] s) :
    ∃ t, perform .stepRx s = .next t ∧ Delivered p s₀ n t ∧ AckPending t := by
  obtain ⟨hdata, hput⟩ : s.fwd.data = y.1 ∧ s.tx.toPut = [] := by
    simpa [Slot.bytes, h.avail] using h.toPut
  have htake : s.rx.toTake p = [(s.fwd.data, y.2)] := by rw [h.toTake, hdata]
  have hx := perform_accepts h.enabled h.avail h.collects (by rwa [h.params]) (by rwa [h.rbuf]) htake
  exact ⟨_, hx, ⟨h.enabled, h.params, by simp [acked, taken, h.rbuf], rfl, rfl, h.retry, h.clock, rfl, h.overrun,
    by simp [acked, taken, h.rev, hrev]⟩, ⟨h.waits hput, rfl, rfl⟩⟩

theorem Delivered.ticks (h : Delivered p s₀ n s) (hfits : tickFits s₀.params (s₀.clock + (n + 1)) = true) :
    ∃ t, perform Program.tick s = .next t ∧ Delivered p s₀ (n + 1) t ∧ (AckPending s → AckPending t) ∧
      (Finished s → Finished t) := by
  have hfits' : tickFits s.params (s.clock + 1) = true := by rwa [h.params, h.clock, Nat.add_assoc]
  exact ⟨_, perform_tick h.enabled hfits', ⟨h.enabled, h.params, h.rbuf, h.rlen, h.rx, h.retry,
    by rw [h.clock, Nat.add_assoc], h.fwd, h.fwdOverrun, h.revOverrun⟩, fun k => ⟨k.tx, k.avail, k.data⟩,
    fun k => ⟨k.tx, k.rev⟩⟩

theorem Delivered.idles (h : Delivered p s₀ n s) (k : Finished s) :
    ∃ t, perform .stepRx s = .next t ∧ Delivered p s₀ n t ∧ Finished t :=
  ⟨_, perform_nobyte h.enabled h.fwd, ⟨h.enabled, h.params, h.rbuf, h.rlen, h.rx, h.retry, h.clock, h.fwd, h.fwdOverrun,
    h.revOverrun⟩, ⟨k.tx, k.rev⟩⟩

/-- A sender that enters its wait with an ACK in REV is done (R150). -/
theorem perform_acked (he : Enabled s) (hfits : tickFits s.params s.clock = true) (k : AckPending s) :
    perform .stepTx s = .next { s with
      rev := { s.rev with avail := false }
      tx := { s.tx with deadline := s.clock + s.params.ackWaitPeriod, phase := .done }
      trace := s.trace ++ [.txAck]
      out := { StepOut.zero with revTake := true, txStatus := 0b10 } } := by
  rw [perform_stepTx he.1, k.tx]
  exact (waitEntryCapturesTheDeadline s he hfits).1 k.avail k.data

theorem Delivered.finishes (h : Delivered p s₀ n s) (k : AckPending s) (hfits : tickFits s₀.params (s₀.clock + n) = true) :
    ∃ t, perform .stepTx s = .next t ∧ Delivered p s₀ n t ∧ Finished t :=
  ⟨_, perform_acked h.enabled (by rwa [h.params, h.clock]) k, ⟨h.enabled, h.params, h.rbuf, h.rlen, h.rx, h.retry, h.clock,
    h.fwd, h.fwdOverrun, h.revOverrun⟩, ⟨rfl, rfl⟩⟩

/-! ### Cycles -/

/-- Cycles that each take one byte of the frame take as many as there are cycles. -/
theorem Sending.repeats {c : List Move} {N : Nat}
    (hcycle : ∀ {n y x ys s}, n < N → Sending p s₀ n full (y :: x :: ys) s →
      ∃ t, Performs c s t ∧ Sending p s₀ (n + 1) full (x :: ys) t)
    (h : Sending p s₀ n full (xs ++ y :: ys) s) (hN : n + xs.length ≤ N) :
    ∃ t, Performs (Program.repeatOps xs.length c) s t ∧ Sending p s₀ (n + xs.length) full (y :: ys) t := by
  induction xs generalizing n s with
  | nil => exact ⟨s, .nil s, h⟩
  | cons z xs ih =>
    rw [List.length_cons] at hN
    obtain ⟨w, ws, hw⟩ : ∃ w ws, xs ++ y :: ys = w :: ws := by cases xs <;> exact ⟨_, _, rfl⟩
    rw [List.cons_append, hw] at h
    obtain ⟨u, hu, hsending⟩ := hcycle (by omega) h
    obtain ⟨t, ht, hsending'⟩ := ih (hw ▸ hsending) (by omega)
    refine ⟨t, hu.append ht, ?_⟩
    rwa [List.length_cons, Nat.add_comm xs.length, ← Nat.add_assoc]

theorem repeatOps_add (a b : Nat) (c : List Move) :
    Program.repeatOps (a + b) c = Program.repeatOps a c ++ Program.repeatOps b c := by
  rw [Program.repeatOps, List.replicate_add, List.flatten_append]
  rfl

@[simp] theorem repeatOps_one (c : List Move) : Program.repeatOps 1 c = c := by
  simp [Program.repeatOps]

theorem repeatOps_length (n : Nat) (c : List Move) : (Program.repeatOps n c).length = n * c.length := by
  simp [Program.repeatOps]

/-- CYCLE: the sender puts a byte, the receiver takes it (R190). -/
theorem Sending.cycle (hcap : p.length ≤ s₀.params.cap) (hfits : tickFits s₀.params (s₀.clock + (n + 1)) = true)
    (h : Sending p s₀ n false (y :: x :: ys) s) :
    ∃ t, Performs Program.cycle s t ∧ Sending p s₀ (n + 1) false (x :: ys) t := by
  obtain ⟨u, hu, h⟩ := h.puts
  obtain ⟨v, hv, h⟩ := h.takes hcap
  obtain ⟨t, ht, h⟩ := h.ticks hfits
  exact ⟨t, .cons hu (.cons hv (.cons ht (.nil t))), h⟩

/-- CYCLE_RT: the receiver takes the byte of the cycle before, the sender puts the next (R190). -/
theorem Sending.cycleRt (hcap : p.length ≤ s₀.params.cap) (hfits : tickFits s₀.params (s₀.clock + (n + 1)) = true)
    (h : Sending p s₀ n true (y :: x :: ys) s) :
    ∃ t, Performs Program.cycleRt s t ∧ Sending p s₀ (n + 1) true (x :: ys) t := by
  obtain ⟨u, hu, h⟩ := h.takes hcap
  obtain ⟨v, hv, h⟩ := h.puts
  obtain ⟨t, ht, h⟩ := h.ticks hfits
  exact ⟨t, .cons hu (.cons hv (.cons ht (.nil t))), h⟩

end Moves

/-- What the receiver expects of a frame before END. -/
def beforeEnd (p : List Byte) : List (Byte × Event) := headTaken p ++ [(checksum p, .rxChecksumOk)]

theorem beforeEnd_length (p : List Byte) : (beforeEnd p).length = 3 + p.length := by
  simp [beforeEnd, headTaken]
  omega

/-- In 5 + L repetitions the cycle `c` carries every transmission that has just begun to its end. -/
def CarriesThrough (c : List Move) : Prop :=
  ∀ (p : List Byte) (s₀ : State), p.length ≤ s₀.params.cap → p.length ≤ s₀.rbuf.length → s₀.rev.avail = false →
    tickFits s₀.params (s₀.clock + (5 + p.length)) = true →
    Sending p s₀ 0 false (beforeEnd p ++ [(wireEnd, .rxAccept (BitVec.ofNat 8 p.length))]) s₀ →
    ∃ t, Performs (Program.repeatOps (5 + p.length) c) s₀ t ∧ Delivered p s₀ (5 + p.length) t ∧ Finished t

/-- The sender first: END is put and taken in cycle 4 + L, the ACK taken in the next. -/
theorem cycle_carriesThrough : CarriesThrough Program.cycle := by
  intro p s₀ hcap hrbuf hrev hfits h
  have fits (n : Nat) (hn : n ≤ 5 + p.length) : tickFits s₀.params (s₀.clock + n) = true :=
    tickFits_mono (by omega) hfits
  obtain ⟨s, hs, h⟩ := h.repeats (N := 5 + p.length) (fun hn h => h.cycle hcap (fits _ hn))
    (by rw [beforeEnd_length]; omega)
  rw [beforeEnd_length, Nat.zero_add] at *
  obtain ⟨t₁, ht₁, h⟩ := h.puts
  obtain ⟨t₂, ht₂, hd, hack⟩ := h.accepts hcap hrbuf hrev
  obtain ⟨t₃, ht₃, hd, htick, -⟩ := hd.ticks (fits _ (by omega))
  obtain ⟨t₄, ht₄, hd, hdone⟩ := hd.finishes (htick hack) (fits _ (by omega))
  obtain ⟨t₅, ht₅, hd, hdone⟩ := hd.idles hdone
  obtain ⟨t₆, ht₆, hd, -, htick⟩ := hd.ticks (fits _ (by omega))
  have hlast : Performs Program.cycle s t₃ := .cons ht₁ (.cons ht₂ (.cons ht₃ (.nil t₃)))
  have hwait : Performs Program.cycle t₃ t₆ := .cons ht₄ (.cons ht₅ (.cons ht₆ (.nil t₆)))
  have hcount : 5 + p.length = 3 + p.length + 1 + 1 := by omega
  rw [hcount, repeatOps_add, repeatOps_add, repeatOps_one]
  exact ⟨t₆, (hs.append hlast).append hwait, hd, htick hdone⟩

/-- The receiver first: it finds no byte in the first cycle, and takes END in the last, before the sender polls. -/
theorem cycleRt_carriesThrough : CarriesThrough Program.cycleRt := by
  intro p s₀ hcap hrbuf hrev hfits h
  have fits (n : Nat) (hn : n ≤ 5 + p.length) : tickFits s₀.params (s₀.clock + n) = true :=
    tickFits_mono (by omega) hfits
  obtain ⟨s₁, hs₁, h⟩ := h.idles
  obtain ⟨y, ys, hy⟩ : ∃ y ys, beforeEnd p ++ [(wireEnd, .rxAccept (BitVec.ofNat 8 p.length))] = y :: ys := ⟨_, _, rfl⟩
  obtain ⟨s₂, hs₂, h⟩ := (hy ▸ h).puts
  obtain ⟨s₃, hs₃, h⟩ := h.ticks (fits 1 (by omega))
  obtain ⟨s, hs, h⟩ := (hy ▸ h).repeats (N := 5 + p.length) (fun hn h => h.cycleRt hcap (fits _ hn))
    (by rw [beforeEnd_length]; omega)
  rw [beforeEnd_length] at *
  obtain ⟨t₁, ht₁, hd, hack⟩ := h.accepts hcap hrbuf hrev
  obtain ⟨t₂, ht₂, hd, hdone⟩ := hd.finishes hack (fits _ (by omega))
  obtain ⟨t₃, ht₃, hd, -, htick⟩ := hd.ticks (fits _ (by omega))
  have hfirst : Performs Program.cycleRt s₀ s₃ := .cons hs₁ (.cons hs₂ (.cons hs₃ (.nil s₃)))
  have hlast : Performs Program.cycleRt s t₃ := .cons ht₁ (.cons ht₂ (.cons ht₃ (.nil t₃)))
  have hcount : 5 + p.length = 1 + (3 + p.length) + 1 := by omega
  rw [hcount, repeatOps_add, repeatOps_add, repeatOps_one]
  exact ⟨t₃, (hfirst.append hs).append hlast, by rwa [Nat.zero_add] at hd, htick hdone⟩

/-- After TX_START a transmission into empty slots has just begun. -/
theorem latched_sending {s : State} {p : List Byte} (he : Enabled s) (hwf : Memory.wf s) (hcap : p.length ≤ s.params.cap)
    (hrx : s.rx.phase = .awaitStart) (ha : s.fwd.avail = false) :
    Sending p (latched p s) 0 false (beforeEnd p ++ [(wireEnd, .rxAccept (BitVec.ofNat 8 p.length))]) (latched p s) := by
  have hlist : headTaken p ++ trailerTaken p = beforeEnd p ++ [(wireEnd, .rxAccept (BitVec.ofNat 8 p.length))] := by
    simp [beforeEnd, trailerTaken]
  rw [← hlist]
  refine ⟨he, rfl, rfl, rfl, rfl, rfl, rfl, rfl, ha, toTake_of_awaitStart hrx, ?_, ?_, latched_indexed he hcap,
    collects_of_awaitStart (by rw [← hwf.1] at hcap; exact hcap) hrx⟩
  · have hempty : (latched p s).fwd.bytes = [] := by simp [latched, Slot.bytes, ha]
    rw [hempty, List.nil_append, latched_toPut he hcap, map_fst_taken]
  · intro hnone
    rw [latched_toPut he hcap] at hnone
    cases hnone

/-- R192, for every cycle of three moves that carries a transmission through. -/
theorem transmission_completes {c : List Move} (hlength : c.length = 3) (hc : CarriesThrough c) (s : State)
    (p : List Byte) (rest : List Move) (he : Enabled s) (hwf : Memory.wf s) (hcap : p.length ≤ s.params.cap)
    (hp : s.tx.phase = .idle ∨ s.tx.phase = .done) (hrx : s.rx.phase = .awaitStart) (hfwd : s.fwd.avail = false)
    (hrev : s.rev.avail = false) (hfits : tickFits s.params (s.clock + (5 + p.length)) = true)
    (hs : s.sched = Program.txStart p :: Program.repeatOps (5 + p.length) c ++ rest) :
    ∃ t, run (1 + 3 * (5 + p.length)) s = .next t ∧
      t.tx.phase = .done ∧ t.tx.retry = 0 ∧ t.rx.phase = .awaitStart ∧
      t.rlen.toNat = p.length ∧ t.rbuf = p ++ s.rbuf.drop p.length ∧
      t.fwd.avail = false ∧ t.rev.avail = false ∧ t.fwd.overrun = s.fwd.overrun ∧ t.rev.overrun = s.rev.overrun ∧
      t.clock = s.clock + (5 + p.length) ∧ t.fault = none ∧ t.sched = rest := by
  have ⟨_, hrbufLength, htxbufLength⟩ := hwf
  have hrbuf : p.length ≤ (latched p s).rbuf.length := hcap.trans hrbufLength.ge
  obtain ⟨t, ht, hd, hdone⟩ := hc p (latched p s) hcap hrbuf hrev hfits (latched_sending he hwf hcap hrx hfwd)
  have hstart := perform_txStart he hcap (hcap.trans htxbufLength.ge) hp
  have hrun := (Performs.cons hstart ht).run_eq hs
  rw [List.length_cons, repeatOps_length, hlength, Nat.add_comm, Nat.mul_comm] at hrun
  exact ⟨_, hrun, hdone.tx, hd.retry, hd.rx, by rw [hd.rlen, he.length_toNat hcap], hd.rbuf, hd.fwd, hdone.rev,
    hd.fwdOverrun, hd.revOverrun, hd.clock, hd.enabled.1, rfl⟩

/-- Settles O56: the cycle with the sender first carries a transmission through. -/
theorem transmissionCompletesUnderCycle : Obligations.TransmissionCompletesUnderCycle :=
  transmission_completes rfl cycle_carriesThrough

/-- Settles O57: so does the cycle with the receiver first. -/
theorem transmissionCompletesUnderCycleRt : Obligations.TransmissionCompletesUnderCycleRt :=
  transmission_completes rfl cycleRt_carriesThrough

/-- Settles O58: the whole frame is put, whatever becomes of it, and the first wait step takes the old ACK. -/
theorem aStaleAckCompletesANewInstance : Obligations.AStaleAckCompletesANewInstance := by
  intro s p rest he hwf hcap hp ha hk hfits hs
  obtain ⟨-, -, htxbuf⟩ := hwf
  have hstart := perform_txStart he hcap (hcap.trans htxbuf.ge) hp
  obtain ⟨u, hu, h⟩ := performs_toPut (s := latched p s) he (latched_indexed he hcap) (latched_toPut he hcap)
  have heu : Enabled u := ⟨h.fault.trans he.1, by rw [h.params]; exact he.2⟩
  have hacked : AckPending u := ⟨by rw [h.tx], by rw [h.rev]; exact ha, by rw [h.rev]; exact hk⟩
  have hdone := perform_acked heu (by rw [h.params, h.clock]; exact hfits) hacked
  have hmoves : List.replicate (5 + p.length) Move.stepTx = List.replicate (frame p).length .stepTx ++ [.stepTx] := by
    rw [show 5 + p.length = (frame p).length + 1 by simp [frame]; omega, List.replicate_succ']
  have hrun := (Performs.cons hstart (hu.append (.cons hdone (.nil _)))).run_eq (rest := rest) (by rw [hs, hmoves]; rfl)
  have hlength :
      (Program.txStart p :: (List.replicate (frame p).length Move.stepTx ++ [.stepTx])).length = 6 + p.length := by
    simp [frame]
    omega
  refine ⟨_, (congrArg (run · s) hlength).symm.trans hrun, rfl, ?_, rfl, h.rx, h.rlen, h.rbuf, heu.1, rfl⟩
  rw [h.tx]
  rfl

end Sys2Proof.Machine

namespace Sys2Proof.Machine

/-! ## Proofs: infinite runs, waits end (spec/43_environment.md R187, R188) -/

section Runs

variable {s t : State} {i : Instr} {m : Move} {moves : Nat → Move} {states : Nat → State}

/-! ### Fair moves -/

/-- What the other moves keep still holds when a fair move is taken next. -/
theorem TakenInfinitelyOften.exists_next {P : Nat → Prop} (hm : TakenInfinitelyOften m moves) {n : Nat} (h : P n)
    (hkeeps : ∀ k, n ≤ k → moves k ≠ m → P k → P (k + 1)) : ∃ k, n ≤ k ∧ moves k = m ∧ P k := by
  obtain ⟨k, hk, hmk⟩ := hm n
  obtain ⟨d, rfl⟩ := Nat.exists_eq_add_of_le hk
  induction d generalizing n with
  | zero => exact ⟨n, Nat.le_refl n, hmk, h⟩
  | succ d ih =>
    by_cases hn : moves n = m
    · exact ⟨n, Nat.le_refl n, hn, h⟩
    · obtain ⟨k, hk, hmk', hP⟩ := ih (n := n + 1) (hkeeps n (Nat.le_refl n) hn h)
        (fun k hk => hkeeps k (by omega)) (by omega) (by rwa [Nat.add_right_comm])
      exact ⟨k, by omega, hmk', hP⟩

theorem perform_clock_le (h : perform m s = .next t) : s.clock ≤ t.clock := by
  obtain ⟨i, -, hx, -⟩ := perform_next h
  rw [exec_next_clock hx]
  split <;> omega

theorem perform_tick_next (h : perform Program.tick s = .next t) :
    t = { s with clock := s.clock + 1, out := StepOut.zero } := by
  obtain ⟨i, hd, hx, -⟩ := perform_next h
  obtain rfl : i = .tick := by cases hd; rfl
  exact (exec_tick_next hx).2

theorem IsInfiniteRun.clock_mono (hrun : IsInfiniteRun moves states) : Monotone fun n => (states n).clock :=
  monotone_nat_of_le_succ fun n => perform_clock_le (hrun n)

/-- Under fair ticks the clock passes every value (R182). -/
theorem IsInfiniteRun.clock_unbounded (hrun : IsInfiniteRun moves states)
    (htick : TakenInfinitelyOften Program.tick moves) (n c : Nat) : ∃ k, n ≤ k ∧ c ≤ (states k).clock := by
  induction c with
  | zero => exact ⟨n, Nat.le_refl n, Nat.zero_le _⟩
  | succ c ih =>
    obtain ⟨k, hk, hc⟩ := ih
    obtain ⟨j, hj, hmove⟩ := htick k
    have hnext : perform Program.tick (states j) = .next (states (j + 1)) := hmove ▸ hrun j
    have hstep : (states (j + 1)).clock = (states j).clock + 1 := by rw [perform_tick_next hnext]
    have hmono : (states k).clock ≤ (states j).clock := hrun.clock_mono hj
    exact ⟨j + 1, by omega, by omega⟩

/-! ### A sender that waits -/

/-- The sender waits for the ACK. -/
def Waiting (s : State) : Prop := s.tx.phase = .waitEntry ∨ s.tx.phase = .wait

/-- The wait is over: the ACK, a timeout, or a RESET. -/
def WaitOver (s : State) : Prop := s.tx.phase = .done ∨ s.tx.phase = .emitStart ∨ s.tx.phase = .idle

/-- A wait check ends the wait, or the deadline `d` has not been reached (R150). -/
theorem waitCheck_over_or_waits (d : Nat) (s : State) :
    WaitOver (waitCheck d s) ∨ (waitCheck d s).tx = { s.tx with phase := .wait } ∧ s.clock < d := by
  obtain ⟨-, -, e⟩ | ⟨-, -, e⟩ | ⟨-, hd, e⟩ := waitCheck_eq d s <;> rw [e]
  · exact .inl (.inl rfl)
  · exact .inl (.inr (.inl rfl))
  · exact .inr ⟨rfl, hd⟩

/-- A sender step in a wait ends it, or finds that the deadline, which WAIT keeps, has not been reached (R148, R149). -/
theorem stepTx_of_waiting (hw : Waiting s) (h : perform .stepTx s = .next t) :
    WaitOver t ∨
      t.tx.phase = .wait ∧ s.clock < t.tx.deadline ∧ (s.tx.phase = .wait → t.tx.deadline = s.tx.deadline) := by
  rw [perform_stepTx (perform_next_enabled h).1] at h
  obtain hp | hp := hw <;> rw [hp] at h
  · obtain ⟨-, rfl⟩ := exec_txWaitEntry_next h
    obtain hover | ⟨e, hd⟩ := waitCheck_over_or_waits (s.clock + s.params.ackWaitPeriod)
      { s with tx := { s.tx with deadline := s.clock + s.params.ackWaitPeriod }, out := StepOut.zero }
    · exact .inl hover
    · exact .inr (by rw [e]; exact ⟨rfl, hd, by simp [hp]⟩)
  · obtain rfl := exec_txWait_next h
    obtain hover | ⟨e, hd⟩ := waitCheck_over_or_waits s.tx.deadline { s with out := StepOut.zero }
    · exact .inl hover
    · exact .inr (by rw [e]; exact ⟨rfl, hd, fun _ => rfl⟩)

/-- With the ACK in REV a sender step in a wait ends the transmission (R150). -/
theorem stepTx_of_waiting_ack (hw : Waiting s) (ha : s.rev.avail = true) (hk : s.rev.data = wireAck)
    (h : perform .stepTx s = .next t) : t.tx.phase = .done := by
  rw [perform_stepTx (perform_next_enabled h).1] at h
  obtain hp | hp := hw <;> rw [hp] at h
  · obtain ⟨-, rfl⟩ := exec_txWaitEntry_next h
    rw [waitCheck_of_ack (by exact ha) (by exact hk)]
    rfl
  · obtain rfl := exec_txWait_next h
    rw [waitCheck_of_ack (by exact ha) (by exact hk)]
    rfl

/-- A move that is no sender step leaves a sender that waits, or resets it: a TX_START would fault (R141, R201). -/
theorem move_of_waiting (hw : Waiting s) (hm : m ≠ .stepTx) (h : perform m s = .next t) : WaitOver t ∨ t.tx = s.tx := by
  obtain ⟨i, hd, hx, hf⟩ := perform_next h
  by_cases hreset : i = .reset
  · subst hreset
    obtain rfl := exec_reset_next hx
    exact .inl (.inr (.inr rfl))
  · cases hstart : i.isStart with
    | true =>
      obtain ⟨len, p, rfl⟩ := exists_txStart_of_isStart hstart
      have hbusy : mayStart s.tx.phase = false := by obtain hp | hp := hw <;> rw [hp] <;> rfl
      obtain ⟨-, rfl⟩ | ⟨hmay, -⟩ | ⟨hmay, -⟩ := exec_txStart_next hx
      · cases hf
      · cases hbusy.symm.trans hmay
      · cases hbusy.symm.trans hmay
    | false =>
      have hsender : i.isSender = false := by
        cases m with
        | stepTx => exact absurd rfl hm
        | stepRx =>
          cases (decodeSelector_rxSelector s).symm.trans hd
          cases s.fwd.avail <;> cases s.rx.phase <;> rfl
        | command code ops => exact (decodeCommand_no_agent hd).2
      obtain ⟨-, -, -, -, htx, -⟩ := eachRegisterHasItsWriters i s t hx
      exact .inr (htx hsender hstart hreset)

end Runs

/-- A run in which a wait never ends from the move `n` on. -/
structure WaitsForever (moves : Nat → Move) (states : Nat → State) (n : Nat) : Prop where
  run : IsInfiniteRun moves states
  waiting : Waiting (states n)
  never : ∀ k, n < k → ¬ WaitOver (states k)

section Forever

variable {moves : Nat → Move} {states : Nat → State} {n k : Nat}

theorem WaitsForever.stepTx (h : WaitsForever moves states n) (hw : Waiting (states k)) (hk : n ≤ k)
    (hm : moves k = .stepTx) :
    (states (k + 1)).tx.phase = .wait ∧ (states k).clock < (states (k + 1)).tx.deadline ∧
      ((states k).tx.phase = .wait → (states (k + 1)).tx.deadline = (states k).tx.deadline) :=
  (stepTx_of_waiting hw (hm ▸ h.run k)).resolve_left (h.never _ (by omega))

theorem WaitsForever.other (h : WaitsForever moves states n) (hw : Waiting (states k)) (hk : n ≤ k)
    (hm : moves k ≠ .stepTx) : (states (k + 1)).tx = (states k).tx :=
  (move_of_waiting hw hm (h.run k)).resolve_left (h.never _ (by omega))

theorem WaitsForever.waiting_all (h : WaitsForever moves states n) (hk : n ≤ k) : Waiting (states k) := by
  induction k, hk using Nat.le_induction with
  | base => exact h.waiting
  | succ k hk ih =>
    by_cases hm : moves k = .stepTx
    · exact .inr (h.stepTx ih hk hm).1
    · simpa only [Waiting, h.other ih hk hm] using ih

/-- From a state in WAIT on, the deadline stays. -/
theorem WaitsForever.deadline (h : WaitsForever moves states n) {j : Nat} (hj : n ≤ j) (hp : (states j).tx.phase = .wait)
    (hk : j ≤ k) : (states k).tx.phase = .wait ∧ (states k).tx.deadline = (states j).tx.deadline := by
  induction k, hk using Nat.le_induction with
  | base => exact ⟨hp, rfl⟩
  | succ k hk ih =>
    have hw := h.waiting_all (k := k) (by omega)
    by_cases hm : moves k = .stepTx
    · obtain ⟨hphase, -, hkept⟩ := h.stepTx hw (by omega) hm
      exact ⟨hphase, (hkept ih.1).trans ih.2⟩
    · rw [h.other hw (by omega) hm]
      exact ih

end Forever

/-- Settles O59: if the wait went on, the sender would stay in WAIT with one deadline, which the clock reaches. -/
theorem fairnessEndsEveryWait : Obligations.FairnessEndsEveryWait := by
  intro moves states n hrun hfair hwait
  obtain ⟨-, htx, htick⟩ := hfair
  by_contra hnever
  have h : WaitsForever moves states n := ⟨hrun, hwait, fun k hk hover => hnever ⟨k, hk, hover⟩⟩
  obtain ⟨j, hj, hmj⟩ := htx n
  have hwaits : (states (j + 1)).tx.phase = .wait := (h.stepTx (h.waiting_all hj) hj hmj).1
  obtain ⟨k, hk, hreached⟩ := hrun.clock_unbounded htick (j + 1) (states (j + 1)).tx.deadline
  obtain ⟨l, hl, hml⟩ := htx k
  have hlate : (states k).clock ≤ (states l).clock := hrun.clock_mono hl
  obtain ⟨hphase, hdeadline⟩ := h.deadline (k := l) (by omega) hwaits (by omega)
  obtain ⟨-, hbefore, hkept⟩ := h.stepTx (.inr hphase) (by omega) hml
  have hkept := hkept hphase
  omega

end Sys2Proof.Machine

namespace Sys2Proof.Machine

/-! ## Proofs: a fair transmission completes (spec/43_environment.md R187, R188, R191)

`Linked` is the invariant of such a run: the byte in FWD and what the sender has still to put are what the receiver still
expects, and an ACK means that the payload is decoded. Fairness moves the sender to its wait, the receiver to the accept,
and the sender, with the ACK in REV, to DONE. -/

section Transmission

variable {p bs : List Byte} {s t : State} {moves : Nat → Move} {states : Nat → State} {n : Nat}

/-! ### The invariant of a transmission -/

/-- The result of the last accept is `p`. -/
def Decoded (p : List Byte) (s : State) : Prop := s.rlen = BitVec.ofNat 8 p.length ∧ s.rbuf.take p.length = p

/-- The sender has `bs` still to put; between two attempts, at EMIT_START, that may be said to be nothing. -/
def Sender.Puts (tx : Sender) (bs : List Byte) : Prop := tx.toPut = bs ∨ tx.phase = .emitStart ∧ bs = []

/-- The receiver still expects `bs`; between two frames, in AwaitStart, that may be said to be nothing. -/
def Receiver.Takes (p : List Byte) (rx : Receiver) (bs : List Byte) : Prop :=
  (rx.toTake p).map Prod.fst = bs ∨ rx.phase = .awaitStart ∧ bs = []

/-- The registers that hold the payload `p` of a transmission: latched by the sender, collected by the receiver. -/
structure Carries (p : List Byte) (s : State) : Prop where
  cap : p.length ≤ s.params.cap
  rbuf : p.length ≤ s.rbuf.length
  len : s.tx.len = BitVec.ofNat 8 p.length
  txbuf : s.tx.txbuf.take p.length = p
  chk : s.tx.chk = checksum p
  begun : s.tx.phase ≠ .idle
  indexed : s.tx.Indexed
  collects : s.rx.Collects p

/-- The invariant of a transmission of `p` without overrun. -/
structure Linked (p : List Byte) (s : State) : Prop where
  carries : Carries p s
  sync : ∃ bs, s.tx.Puts bs ∧ s.rx.Takes p (s.fwd.bytes ++ bs)
  ack : s.rev.avail = true → s.rev.data = wireAck ∧ Decoded p s
  done : s.tx.phase = .done → Decoded p s

theorem Receiver.Takes.eq_of_cons {rx : Receiver} {b : Byte} (h : rx.Takes p (b :: bs)) :
    (rx.toTake p).map Prod.fst = b :: bs :=
  h.resolve_right fun hnil => List.cons_ne_nil b bs hnil.2

/-- A receiver that may be said to expect nothing is in AwaitStart. -/
theorem Receiver.Takes.awaitStart {rx : Receiver} (h : rx.Takes p []) : rx.phase = .awaitStart :=
  (h.resolve_left fun hnil => rx.toTake_ne_nil p (List.map_eq_nil_iff.mp hnil)).1

theorem Carries.emitStart (he : Enabled s) (h : Carries p s) (hp : s.tx.phase = .emitStart) : s.tx.toPut = frame p := by
  have hlen := he.length_toNat h.cap
  simp [Sender.toPut, hp, h.len, hlen, h.txbuf, h.chk, frame]

/-- With FWD empty the receiver expects what the sender puts. -/
theorem Linked.expects (he : Enabled s) (h : Linked p s) (ha : s.fwd.avail = false) {b : Byte}
    (hput : s.tx.toPut = b :: bs) : (s.rx.toTake p).map Prod.fst = b :: bs := by
  obtain ⟨cs, hputs, htakes⟩ := h.sync
  have hempty : s.fwd.bytes = [] := by simp [Slot.bytes, ha]
  rw [hempty, List.nil_append] at htakes
  obtain rfl | ⟨hp, rfl⟩ := hputs
  · rw [hput] at htakes
    exact htakes.eq_of_cons
  · have hstart := toTake_of_awaitStart (p := p) htakes.awaitStart
    rw [hstart, map_fst_taken, ← hput, h.carries.emitStart he hp]

/-- With the byte `b` in FWD the receiver expects it first. -/
theorem Linked.expects_data (h : Linked p s) (ha : s.fwd.avail = true) :
    ∃ bs, s.tx.Puts bs ∧ (s.rx.toTake p).map Prod.fst = s.fwd.data :: bs := by
  obtain ⟨bs, hputs, htakes⟩ := h.sync
  have hfull : s.fwd.bytes = [s.fwd.data] := by simp [Slot.bytes, ha]
  rw [hfull] at htakes
  exact ⟨bs, hputs, htakes.eq_of_cons⟩

/-! ### Every move keeps it -/

/-- An emission into an empty FWD. -/
theorem Linked.emitted {b : Byte} {idx : Byte} {phase : TxPhase} (he : Enabled s) (h : Linked p s)
    (ha : s.fwd.avail = false) (hput : s.tx.toPut = b :: bs) (hnext : PutsNext s b bs idx phase) :
    Linked p (emitted b (s.tx.movedTo idx phase) s) := by
  obtain ⟨cap, rbuf, len, txbuf, chk, -, -, collects⟩ := h.carries
  exact ⟨⟨cap, rbuf, len, txbuf, chk, hnext.inside.1, hnext.indexed, collects⟩,
    ⟨bs, .inl hnext.toPut, .inl (h.expects he ha hput)⟩, h.ack, fun hdone => absurd hdone hnext.inside.2⟩

/-- A wait check: the ACK it takes means that the payload is decoded. -/
theorem Linked.waitCheck (h : Linked p s) (hw : Waiting s) (d : Nat) : Linked p (waitCheck d s) := by
  obtain ⟨cap, rbuf, len, txbuf, chk, -, indexed, collects⟩ := h.carries
  have hidx : s.tx.idx = s.tx.len := indexed.emitted (by obtain hp | hp := hw <;> rw [hp] <;> rfl)
  have htakes : s.rx.Takes p (s.fwd.bytes ++ []) := by
    obtain ⟨bs, hputs, htakes⟩ := h.sync
    have hnil : s.tx.toPut = [] := Sender.toPut_eq_nil.mpr (by obtain hp | hp := hw <;> simp [hp])
    obtain rfl : bs = [] := hputs.elim (fun e => e.symm.trans hnil) And.right
    exact htakes
  obtain ⟨ha, hk, e⟩ | ⟨-, -, e⟩ | ⟨-, -, e⟩ := waitCheck_eq d s <;> rw [e]
  · exact ⟨⟨cap, rbuf, len, txbuf, chk, nofun, ⟨indexed.buffer, nofun, nofun, fun _ => hidx⟩, collects⟩,
      ⟨[], .inl rfl, htakes⟩, nofun, fun _ => (h.ack ha).2⟩
  · exact ⟨⟨cap, rbuf, len, txbuf, chk, nofun, ⟨indexed.buffer, nofun, nofun, nofun⟩, collects⟩,
      ⟨[], .inr ⟨rfl, rfl⟩, htakes⟩, nofun, nofun⟩
  · exact ⟨⟨cap, rbuf, len, txbuf, chk, nofun, ⟨indexed.buffer, nofun, nofun, fun _ => hidx⟩, collects⟩,
      ⟨[], .inl rfl, htakes⟩, nofun, nofun⟩

/-- What a step drives, the deadline and the clock are no part of it. -/
theorem Linked.with_kept (h : Linked p s) (d c : Nat) (out : StepOut) :
    Linked p { s with tx := { s.tx with deadline := d }, clock := c, out := out } := by
  obtain ⟨⟨cap, rbuf, len, txbuf, chk, begun, indexed, collects⟩, sync, ack, done⟩ := h
  exact ⟨⟨cap, rbuf, len, txbuf, chk, begun,
    ⟨indexed.buffer, indexed.emitLength, indexed.emitPayload, indexed.emitted⟩, collects⟩, sync, ack, done⟩

/-- The sender's phases are those of an emission, those of a wait, IDLE and DONE. -/
theorem sender_phases (tx : Sender) :
    (∃ b bs, tx.toPut = b :: bs) ∨ (tx.phase = .waitEntry ∨ tx.phase = .wait) ∨ tx.phase = .idle ∨ tx.phase = .done := by
  cases hput : tx.toPut with
  | cons b bs => exact .inl ⟨b, bs, rfl⟩
  | nil =>
    obtain hp | hp | hp | hp := Sender.toPut_eq_nil.mp hput <;> simp [hp]

/-- An emission that does not overrun found FWD empty (R41). -/
theorem avail_of_no_overrun {b : Byte} {tx : Sender} (h : (Machine.emitted b tx s).fwd.overrun = false) :
    s.fwd.avail = false :=
  (Bool.or_eq_false_iff.mp h).2

theorem Linked.stepTx (h : Linked p s) (hx : perform .stepTx s = .next t) (hno : t.fwd.overrun = false) :
    Linked p t := by
  have he := perform_next_enabled hx
  obtain ⟨b, bs, hput⟩ | hw | hidle | hdone := sender_phases s.tx
  · obtain ⟨idx, phase, hnext⟩ := exists_putsNext he h.carries.indexed hput
    cases hnext.step.symm.trans hx
    exact h.emitted he (avail_of_no_overrun hno) hput hnext
  · rw [perform_stepTx he.1] at hx
    obtain hp | hp := hw <;> rw [hp] at hx
    · obtain ⟨-, rfl⟩ := exec_txWaitEntry_next hx
      exact (h.with_kept (s.clock + s.params.ackWaitPeriod) s.clock StepOut.zero).waitCheck (.inl hp) _
    · obtain rfl := exec_txWait_next hx
      exact (h.with_kept s.tx.deadline s.clock StepOut.zero).waitCheck (.inr hp) _
  · exact absurd hidle h.carries.begun
  · rw [perform_stepTx he.1, hdone] at hx
    obtain rfl := exec_txDone_next hx
    exact h.with_kept s.tx.deadline s.clock _

/-- A receiver step takes the byte in FWD if there is one; the last byte of a frame is the accept. -/
theorem Linked.stepRx (h : Linked p s) (hx : perform .stepRx s = .next t) : Linked p t := by
  have he := perform_next_enabled hx
  obtain ⟨cap, rbuf, len, txbuf, chk, begun, indexed, collects⟩ := h.carries
  cases ha : s.fwd.avail with
  | false =>
    cases (perform_nobyte he ha).symm.trans hx
    exact h.with_kept s.tx.deadline s.clock _
  | true =>
    obtain ⟨bs, hputs, hbytes⟩ := h.expects_data ha
    obtain ⟨⟨b, ev⟩, ys, htake, rfl, rfl⟩ := List.map_eq_cons_iff.mp hbytes
    cases ys with
    | cons y ys =>
      obtain ⟨rx, hnext⟩ := exists_takesNext he ha collects cap htake
      cases hnext.step.symm.trans hx
      exact ⟨⟨cap, rbuf, len, txbuf, chk, begun, indexed, hnext.collects⟩,
        ⟨_, hputs, .inl (congrArg _ hnext.toTake)⟩, h.ack, h.done⟩
    | nil =>
      cases (perform_accepts he ha collects cap rbuf htake).symm.trans hx
      have hdecoded : Decoded p (acked (p ++ s.rbuf.drop p.length) (BitVec.ofNat 8 p.length)
          (taken { s.rx with phase := .awaitStart } (.rxAccept (BitVec.ofNat 8 p.length)) s)) :=
        ⟨rfl, List.take_left⟩
      have hlength : p.length ≤ (p ++ s.rbuf.drop p.length).length := by simp
      exact ⟨⟨cap, hlength, len, txbuf, chk, begun, indexed, collects_of_awaitStart collects.buffer rfl⟩,
        ⟨_, hputs, .inr ⟨rfl, rfl⟩⟩, fun _ => ⟨rfl, hdecoded⟩, fun _ => hdecoded⟩

theorem Linked.tick (h : Linked p s) (hx : perform Program.tick s = .next t) : Linked p t := by
  obtain rfl := perform_tick_next hx
  exact h.with_kept s.tx.deadline _ _

/-- TX_START into empty slots begins a transmission. -/
theorem linked_latched (he : Enabled s) (hwf : Memory.wf s) (hcap : p.length ≤ s.params.cap)
    (hrx : s.rx.phase = .awaitStart) (hfwd : s.fwd.avail = false) (hrev : s.rev.avail = false) :
    Linked p (latched p s) := by
  obtain ⟨hpbuf, hrbuf, -⟩ := hwf
  refine ⟨⟨hcap, hcap.trans hrbuf.ge, rfl, List.take_left, rfl, nofun, latched_indexed he hcap,
    collects_of_awaitStart (hcap.trans hpbuf.ge) hrx⟩, ⟨[], .inr ⟨rfl, rfl⟩, .inr ⟨hrx, ?_⟩⟩, fun ha => ?_, nofun⟩
  · simp [latched, Slot.bytes, hfwd]
  · cases hrev.symm.trans ha

/-! ### Along a fair run -/

/-- A fair run of the two agents and the clock that carries a transmission of `p` from its first state on, without
overrun. -/
structure FairTransmission (p : List Byte) (moves : Nat → Move) (states : Nat → State) : Prop where
  run : IsInfiniteRun moves states
  fairRx : TakenInfinitelyOften .stepRx moves
  fairTx : TakenInfinitelyOften .stepTx moves
  moves : ∀ n, moves n = .stepRx ∨ moves n = .stepTx ∨ moves n = Program.tick
  noOverrun : ∀ n, (states n).fwd.overrun = false
  start : Linked p (states 0)

/-- The ACK is in REV, or taken. -/
def AckSeen (s : State) : Prop := s.rev.avail = true ∨ s.tx.phase = .done

/-- A sender step with the ACK in REV leaves it there, or takes it and is done. -/
theorem Linked.ackSeen_stepTx (h : Linked p s) (hseen : AckSeen s) (hx : perform .stepTx s = .next t) : AckSeen t := by
  have he := perform_next_enabled hx
  obtain ⟨b, bs, hput⟩ | hw | hidle | hdone := sender_phases s.tx
  · obtain ⟨idx, phase, hnext⟩ := exists_putsNext he h.carries.indexed hput
    cases hnext.step.symm.trans hx
    refine .inl (hseen.resolve_right fun hdone => ?_)
    cases (Sender.toPut_eq_nil.mpr (.inr (.inr (.inr hdone)))).symm.trans hput
  · have ha : s.rev.avail = true := hseen.resolve_right (by obtain hp | hp := hw <;> simp [hp])
    exact .inr (stepTx_of_waiting_ack hw ha (h.ack ha).1 hx)
  · exact absurd hidle h.carries.begun
  · rw [perform_stepTx he.1, hdone] at hx
    obtain rfl := exec_txDone_next hx
    exact .inr hdone

theorem perform_stepRx_next (hx : perform .stepRx s = .next t) : ∃ i, i.isReceiver = true ∧ exec i s = .next t := by
  rw [perform_stepRx (perform_next_enabled hx).1] at hx
  refine ⟨_, ?_, hx⟩
  cases s.fwd.avail
  · rfl
  · exact s.rx.phase.handler_isReceiver

/-- A receiver step takes nothing out of REV, and leaves the sender. -/
theorem ackSeen_stepRx (hseen : AckSeen s) (hx : perform .stepRx s = .next t) : AckSeen t := by
  obtain ⟨i, hr, hi⟩ := perform_stepRx_next hx
  obtain rfl | ⟨rx, ev, rfl⟩ | ⟨rx, ev, rbuf, rlen, rfl⟩ := exec_receiver_next hr hi
  · exact hseen
  · exact hseen
  · exact .inl rfl

namespace FairTransmission

variable (h : FairTransmission p moves states)

include h

theorem linked (n : Nat) : Linked p (states n) := by
  induction n with
  | zero => exact h.start
  | succ n ih =>
    have hstep := h.run n
    obtain hm | hm | hm := h.moves n <;> rw [hm] at hstep
    · exact ih.stepRx hstep
    · exact ih.stepTx hstep (h.noOverrun _)
    · exact ih.tick hstep

theorem ackSeen_mono {k : Nat} (hseen : AckSeen (states n)) (hk : n ≤ k) : AckSeen (states k) := by
  induction k, hk using Nat.le_induction with
  | base => exact hseen
  | succ k hk ih =>
    have hstep := h.run k
    obtain hm | hm | hm := h.moves k <;> rw [hm] at hstep
    · exact ackSeen_stepRx ih hstep
    · exact (h.linked k).ackSeen_stepTx ih hstep
    · rw [perform_tick_next hstep]
      exact ih

/-- Only a sender step writes the sender's registers. -/
theorem tx_kept (hm : moves n ≠ .stepTx) : (states (n + 1)).tx = (states n).tx := by
  have hstep := h.run n
  obtain hrx | htx | htick := h.moves n
  · rw [hrx] at hstep
    obtain ⟨i, hr, hi⟩ := perform_stepRx_next hstep
    exact (exec_receiver_keeps hr hi).1
  · exact absurd htx hm
  · rw [htick] at hstep
    rw [perform_tick_next hstep]

/-- Until the receiver moves a byte in FWD stays: a put would overrun it. -/
theorem fwd_kept (hm : moves n ≠ .stepRx) (ha : (states n).fwd.avail = true) :
    (states (n + 1)).fwd = (states n).fwd ∧ (states (n + 1)).rx = (states n).rx := by
  have hstep := h.run n
  obtain hrx | htx | htick := h.moves n
  · exact absurd hrx hm
  · rw [htx, perform_stepTx (perform_next_enabled hstep).1] at hstep
    have hs := (states n).tx.phase.handler_isSender
    refine ⟨?_, (exec_sender_keeps hs hstep).1⟩
    obtain ⟨-, b, tx, e⟩ | ⟨-, tx, evs, st, e⟩ | ⟨-, st, e⟩ := exec_sender_next hs hstep
    · cases (avail_of_no_overrun (e ▸ h.noOverrun (n + 1))).symm.trans ha
    · rw [e]
      rfl
    · rw [e]
  · rw [htick] at hstep
    rw [perform_tick_next hstep]
    exact ⟨rfl, rfl⟩

/-- The byte the sender is to put next is put. -/
theorem puts_next {b : Byte} (hput : (states n).tx.toPut = b :: bs) :
    ∃ k, n ≤ k ∧ (states k).tx.toPut = bs ∧ (bs = [] → (states k).tx.phase = .waitEntry) ∧
      (states k).fwd.avail = true := by
  obtain ⟨k, hk, hm, hput⟩ := h.fairTx.exists_next (P := fun k => (states k).tx.toPut = b :: bs) hput
    fun k _ hm hput => by rw [h.tx_kept hm]; exact hput
  have hstep : perform .stepTx (states k) = .next (states (k + 1)) := hm ▸ h.run k
  obtain ⟨idx, phase, hnext⟩ := exists_putsNext (perform_next_enabled hstep) (h.linked k).carries.indexed hput
  have e := Host.Outcome.next.inj (hstep.symm.trans hnext.step)
  refine ⟨k + 1, by omega, ?_⟩
  rw [e]
  exact ⟨hnext.toPut, hnext.last, rfl⟩

/-- A sender with bytes to put gets to WAIT_ENTRY, with END in FWD. -/
theorem reaches_waitEntry {b : Byte} (hput : (states n).tx.toPut = b :: bs) :
    ∃ k, n ≤ k ∧ (states k).tx.phase = .waitEntry ∧ (states k).fwd.avail = true := by
  induction bs generalizing n b with
  | nil =>
    obtain ⟨k, hk, -, hlast, ha⟩ := h.puts_next hput
    exact ⟨k, hk, hlast rfl, ha⟩
  | cons c bs ih =>
    obtain ⟨k, hk, hput, -⟩ := h.puts_next hput
    obtain ⟨j, hj, hwait⟩ := ih hput
    exact ⟨j, by omega, hwait⟩

/-- END in FWD is taken, and accepted. -/
theorem reaches_ack (hp : (states n).tx.phase = .waitEntry) (ha : (states n).fwd.avail = true) :
    ∃ k, n ≤ k ∧ AckSeen (states k) := by
  obtain ⟨bs, hputs, hbytes⟩ := (h.linked n).expects_data ha
  obtain rfl : bs = [] := by
    have hnil : (states n).tx.toPut = [] := Sender.toPut_eq_nil.mpr (.inr (.inl hp))
    exact hputs.elim (fun e => e.symm.trans hnil) And.right
  obtain ⟨⟨b, ev⟩, ys, htake, hb, hys⟩ := List.map_eq_cons_iff.mp hbytes
  obtain rfl := List.map_eq_nil_iff.mp hys
  obtain rfl : b = (states n).fwd.data := hb
  obtain ⟨k, hk, hm, hfwd, hrx⟩ := h.fairRx.exists_next
    (P := fun k => (states k).fwd = (states n).fwd ∧ (states k).rx = (states n).rx) ⟨rfl, rfl⟩ fun k _ hm hkept => by
      obtain ⟨hfwd, hrx⟩ := h.fwd_kept hm (by rw [hkept.1]; exact ha)
      exact ⟨hfwd.trans hkept.1, hrx.trans hkept.2⟩
  have hstep : perform .stepRx (states k) = .next (states (k + 1)) := hm ▸ h.run k
  have hcarries := (h.linked k).carries
  have haccept := perform_accepts (perform_next_enabled hstep) (by rw [hfwd]; exact ha) hcarries.collects hcarries.cap
    hcarries.rbuf (by rw [hrx, hfwd]; exact htake)
  refine ⟨k + 1, by omega, .inl ?_⟩
  rw [Host.Outcome.next.inj (hstep.symm.trans haccept)]
  rfl

/-- A sender with bytes to put gets to its wait; one without is there, or done. -/
theorem reaches_wait (n : Nat) : ∃ k, n ≤ k ∧ (Waiting (states k) ∨ (states k).tx.phase = .done) := by
  obtain ⟨b, bs, hput⟩ | hw | hidle | hdone := sender_phases (states n).tx
  · obtain ⟨k, hk, hp, -⟩ := h.reaches_waitEntry hput
    exact ⟨k, hk, .inl (.inl hp)⟩
  · exact ⟨n, Nat.le_refl n, .inl hw⟩
  · exact absurd hidle (h.linked n).carries.begun
  · exact ⟨n, Nat.le_refl n, .inr hdone⟩

/-- The ACK is taken by the next step of a sender that waits. -/
theorem reaches_done (hseen : AckSeen (states n)) : ∃ k, n ≤ k ∧ (states k).tx.phase = .done := by
  obtain ⟨k, hk, hw | hdone⟩ := h.reaches_wait n
  · obtain ⟨j, hj, hm, hw⟩ := h.fairTx.exists_next (P := fun j => Waiting (states j)) hw
      fun j _ hm hw => by simpa only [Waiting, h.tx_kept hm] using hw
    have hstep : perform .stepTx (states j) = .next (states (j + 1)) := hm ▸ h.run j
    have ha : (states j).rev.avail = true :=
      (h.ackSeen_mono hseen (hk.trans hj)).resolve_right (by obtain hp | hp := hw <;> simp [hp])
    exact ⟨j + 1, by omega, stepTx_of_waiting_ack hw ha ((h.linked j).ack ha).1 hstep⟩
  · exact ⟨k, hk, hdone⟩

end FairTransmission

theorem TakenInfinitelyOften.tail {m : Move} (hm : TakenInfinitelyOften m moves) :
    TakenInfinitelyOften m fun n => moves (n + 1) := by
  intro n
  obtain ⟨k, hk, hmove⟩ := hm (n + 1)
  obtain ⟨j, rfl⟩ := Nat.exists_eq_add_of_le' (show 1 ≤ k by omega)
  exact ⟨j, by omega, hmove⟩

end Transmission

/-- Settles O60: the sender gets to its wait, the receiver accepts, and the sender takes the ACK; the invariant says that the
payload is decoded then. -/
theorem fairTransmissionCompletes : Obligations.FairTransmissionCompletes := by
  intro moves states p hrun hfair hwf hcap hp hrx hfwd hrev hstart hmoves hno
  obtain ⟨hfairRx, hfairTx, -⟩ := hfair
  have ⟨_, _, htxbuf⟩ := hwf
  have hfirst : perform (Program.txStart p) (states 0) = .next (states 1) := hstart ▸ hrun 0
  have he := perform_next_enabled hfirst
  have hlatched : states 1 = latched p (states 0) :=
    Host.Outcome.next.inj (hfirst.symm.trans (perform_txStart he hcap (hcap.trans htxbuf.ge) hp))
  have h : FairTransmission p (fun n => moves (n + 1)) (fun n => states (n + 1)) :=
    ⟨fun n => hrun (n + 1), hfairRx.tail, hfairTx.tail, fun n => hmoves (n + 1) (by omega),
      fun n => hno (n + 1), hlatched ▸ linked_latched he hwf hcap hrx hfwd hrev⟩
  have hput : (states 1).tx.toPut = frame p := by rw [hlatched, latched_toPut he hcap]
  obtain ⟨k, -, hwait, hend⟩ := h.reaches_waitEntry (n := 0) hput
  obtain ⟨j, -, hseen⟩ := h.reaches_ack hwait hend
  obtain ⟨n, -, hdone⟩ := h.reaches_done hseen
  obtain ⟨hrlen, hrbuf⟩ := (h.linked n).done hdone
  exact ⟨n + 1, by omega, hdone, by rw [hrlen, he.length_toNat hcap], hrbuf⟩

end Sys2Proof.Machine
